-- ==== Sys2Proof/Word.lean ====
section
/-! DEFINITION. The word types of the block and the plain widening of its unsigned values
(spec/00_scope.md R9 to R11, spec/10_state.md R20 to R34, spec/30_encoding.md R91). -/

namespace Sys2Proof

/-- An 8-bit value: a general register, a timer, the stack pointer, a memory byte, the field `NN`. -/
abbrev Byte := BitVec 8

/-- A 16-bit value: an opcode, `pc`, `I`, a stack entry (R23, R26, R27, R90). -/
abbrev Word := BitVec 16

/-- The 12-bit address field `NNN` (R91). -/
abbrev Addr12 := BitVec 12

/-- The number of a general register V0 to VF: the fields `X` and `Y` (R91, R93) and `waitReg` (R31). -/
abbrev Reg := Fin 16

/-- The number of a key, 0x0 to 0xF (R34). -/
abbrev Key := Fin 16

/-- The sprite row count `N`, 0 to 15 (R93). -/
abbrev RowCount := Fin 16

/-- `VF = V[15]`, the flag register (R21). -/
abbrev VF : Reg := 15

/-- `V0 = V[0]`, the offset register of BNNN (R164). -/
abbrev V0 : Reg := 0

/-- `zext_16` of a byte (R10). -/
def zext16 (b : Byte) : Word := b.setWidth 16

/-- `zext_16(NNN)`, an address field as a `pc` or `I` value (R93). -/
def addr16 (nnn : Addr12) : Word := nnn.setWidth 16

end Sys2Proof
end

