-- ==== Sys2Proof/Config.lean ====
section
/-! DEFINITION. The parameters of an implementation (spec/00_scope.md R7) and the free values.
The three parameters that the spec leaves to the implementation are plain data, carried by State,
so that every statement about all states holds for every value of them (notes/assumptions/1.md).
The random draw is a constant with no body: no proof can learn a value of it (R361). -/

namespace Sys2Proof

/-- `TIMER_CADENCE`, an OPEN parameter (R7, R342; D13): where timer ticks come from. -/
inductive TimerCadence where
  /-- Each step that completes without an error performs one tick (R135). -/
  | perStep
  /-- Ticks come only from the host's `tick` operation (R354). -/
  | external
  deriving DecidableEq, Repr

/-- `STACK_ERROR_POLICY` (R7; D4): what a call on a full stack and a return on an empty one do. -/
inductive StackErrorPolicy where
  /-- Raise `StackOverflow` or `StackUnderflow`; the spec's default (R162, R163). -/
  | fault
  /-- Index the stack by `SP mod 16` and let `SP` wrap as 8 bits (R162, R163). -/
  | wrap
  deriving DecidableEq, Repr

/-- `FONT`: the 80 bytes of the hex-digit font, glyph `d` at `d * 5` (R7, R46). -/
abbrev Font := Vector Byte 80

/-- The parameters of R7 that are not constants of the source. -/
structure Config where
  timerCadence     : TimerCadence
  stackErrorPolicy : StackErrorPolicy
  font             : Font
  deriving DecidableEq, Repr

/-- FREE VALUE (R221, R361; notes/assumptions/2.md): the environment's `k`-th random draw. Nothing
is known of it, so a statement about a draw holds for every value the draw can have. -/
opaque Config.rnd : Nat → Byte

end Sys2Proof
end

