-- ==== Sys2Proof/Machine/ResetValues.lean ====
section
/-! DEFINITION. The values the component reset establishes (spec/70_reset_and_hazards.md R380,
spec/10_state.md R43 to R46) and the parameter values of the state after reset. They stand in
definitions of their own so that State.reset and the component reset share them. -/

namespace Sys2Proof.Machine

/-- `LOAD_ADDR = 0x200`, where `load` copies the ROM (R7, R68). -/
def loadAddr : Word := 0x200#16

/-- The reset value of `pc` (R43). -/
def resetPc : Word := 0x200#16

/-- The default of the parameter `FONT` (R46): sixteen glyphs of five bytes, four glyphs a line.
The spec marks these bytes as general knowledge (D27; notes/assumptions/5.md). -/
def defaultFont : Font :=
  (#v[0xF0, 0x90, 0x90, 0x90, 0xF0, 0x20, 0x60, 0x20, 0x20, 0x70,
      0xF0, 0x10, 0xF0, 0x80, 0xF0, 0xF0, 0x10, 0xF0, 0x10, 0xF0] : Vector Byte 20)
  ++ (#v[0x90, 0x90, 0xF0, 0x10, 0x10, 0xF0, 0x80, 0xF0, 0x10, 0xF0,
         0xF0, 0x80, 0xF0, 0x90, 0xF0, 0xF0, 0x10, 0x20, 0x40, 0x40] : Vector Byte 20)
  ++ (#v[0xF0, 0x90, 0xF0, 0x90, 0xF0, 0xF0, 0x90, 0xF0, 0x10, 0xF0,
         0xF0, 0x90, 0xF0, 0x90, 0x90, 0xE0, 0x90, 0xE0, 0x90, 0xE0] : Vector Byte 20)
  ++ (#v[0xF0, 0x80, 0x80, 0x80, 0xF0, 0xE0, 0x90, 0x90, 0x90, 0xE0,
         0xF0, 0x80, 0xF0, 0x80, 0xF0, 0xF0, 0x80, 0xF0, 0x80, 0x80] : Vector Byte 20)

/-- The parameter values of the state after reset: the spec's default policy (D4) and font (D27),
and, of the two cadences the spec leaves OPEN (D13), the one its vectors use
(spec/95_test_vectors.md Part 0). DESIGN CHOICE: notes/assumptions/1.md; no statement rests on it. -/
def resetConfig : Config :=
  { timerCadence := .external, stackErrorPolicy := .fault, font := defaultFont }

end Sys2Proof.Machine
end

