-- ==== Sys2Proof/Machine/State.lean ====
section
/-! DEFINITION. The state of the block, the ways an operation ends early, and the state after reset
(spec/10_state.md R20 to R46; spec/60_exceptions.md R330, R331). Field names are the spec's. -/

namespace Sys2Proof.Machine

/-- Memory: (address, byte) pairs in one canonical form (`Memory.wf` in Machine/Ops.lean). An
unlisted address reads as the component reset leaves it (R44). -/
abbrev Memory := List Host.Cell

/-- The framebuffer: 32 rows of 64 pixels, row-major, `true` is on (R33). -/
abbrev Framebuffer := Vector (Vector Bool 64) 32

/-- An event of one host operation (R350, R355 to R358). -/
inductive Event where
  /-- The repaint indication of 00E0 and DXYN (R356). -/
  | displayChanged
  /-- A tone request; the duration is in ticks (R341, R355). -/
  | requestBeep (duration : Byte)
  /-- A press edge (R344, R358). -/
  | keyPressed (k : Key)
  /-- A release edge (R344, R358). -/
  | keyReleased (k : Key)
  deriving DecidableEq, Repr

/-- The host operations that the lifecycle guard covers, as `NotInitialized` names them (R331, R352). -/
inductive Operation where
  /-- `step()`. -/
  | step
  /-- `load(bytes)`. -/
  | load
  /-- `tick()`. -/
  | tick
  /-- `setKey(k, d)`. -/
  | setKey
  deriving DecidableEq, Repr

/-- The seven error kinds of R331, each with the info it records. An operation that ends in one
leaves the state as it was (R330): the outcome carries no state. -/
inductive Fault where
  /-- Raised by `step` when the fetched opcode is invalid: the opcode, the fetch address and the
  dispatch nibble (R332). Safe: it is the error the spec names. -/
  | invalidOpcode (op : Word) (a : Word) (nibble : BitVec 4)
  /-- Raised by `step`, `load`, `tick` and `setKey` before `initialize` (R352). Safe: as the spec says. -/
  | notInitialized (operation : Operation)
  /-- Raised by `initialize` on an initialized block (R382). Safe: as the spec says. -/
  | alreadyInitialized
  /-- Raised by `load` for a ROM over 3584 bytes: its length (R383). Safe: as the spec says. -/
  | romTooLarge (length : Nat)
  /-- Raised by `setKey`, EX9E and EXA1 for a key index outside 0 to 15: the index (R184, R185, R344).
  Safe: as the spec says. -/
  | invalidKeyIndex (index : Nat)
  /-- Raised by 2NNN on a full stack under the policy `Fault`: the fetch address and `SP` (R162).
  Safe: the source leaves the case undefined and the spec names this error for it. -/
  | stackOverflow (a : Word) (sp : Byte)
  /-- Raised by 00EE on an empty stack under the policy `Fault`: the fetch address (R163).
  Safe: the source leaves the case undefined and the spec names this error for it. -/
  | stackUnderflow (a : Word)
  deriving DecidableEq, Repr

/-- Why an operation has no meaning in the model. -/
inductive Refusal where
  /-- Answered by an arm of `exec` whose instruction has no meaning yet; none is left. Safe: the
  model stops. -/
  | notModelled (mnemonic : String)
  /-- Answered by `tick` under `TIMER_CADENCE = PerStep`, where the interface has no such operation
  (R354). Safe: the model stops; `step` never answers it. -/
  | noTickOperation
  deriving DecidableEq, Repr

/-- Everything the spec gives the block (10_state.md section 9), and three fields of the model's own:
the events of the last operation, the count of random draws, and the parameters. -/
structure State where
  /-- The general registers V0 to VF (R20). -/
  V           : Vector Byte 16
  /-- The address register (R26). -/
  I           : Word
  /-- The program counter (R23). -/
  pc          : Word
  /-- The stack pointer: the number of return addresses on the stack (R28). -/
  SP          : Byte
  /-- The call stack (R27). -/
  S           : Vector Word 16
  /-- The delay timer (R29). -/
  DT          : Byte
  /-- The sound timer (R30). -/
  ST          : Byte
  /-- Memory, 4096 bytes (R32). -/
  M           : Memory
  /-- The framebuffer (R33). -/
  FB          : Framebuffer
  /-- The keypad: which keys are down (R34). -/
  K           : Vector Bool 16
  /-- The wait-for-key sub-state is active (R31). -/
  waiting     : Bool
  /-- The target register FX0A remembers (R31). -/
  waitReg     : Reg
  /-- The lifecycle guard (R31). -/
  initialized : Bool
  /-- MODEL'S OWN: the events of the operation that led to this state, in the order emitted
  (R353; notes/assumptions/3.md). -/
  events      : List Event
  /-- MODEL'S OWN: how many random draws the block has taken (R361; notes/assumptions/2.md). -/
  draws       : Nat
  /-- MODEL'S OWN: the parameters of the implementation (R7, R36; notes/assumptions/1.md). -/
  config      : Config
  deriving DecidableEq, Repr

/-- What one instruction, or one `step`, ends in. -/
abbrev Result := Host.Outcome State Fault Refusal

/-- Power-on (R381): `initialized = 0`, and every other piece of state at its component-reset value
(R43 to R45). -/
def State.powerOn : State :=
  { V := Vector.replicate 16 0, I := 0, pc := resetPc, SP := 0, S := Vector.replicate 16 0
    DT := 0, ST := 0, M := [], FB := Vector.replicate 32 (Vector.replicate 64 false)
    K := Vector.replicate 16 false, waiting := false, waitReg := 0, initialized := false
    events := [], draws := 0, config := resetConfig }

/-- The machine right after reset: after the first `initialize()`, which performs the component
reset and sets `initialized` (R382). Every operation that performs the component reset ends with
`initialized = 1` (R382, R383), so this is the state after a reset (notes/assumptions/4.md). -/
def State.reset : State := { State.powerOn with initialized := true }

end Sys2Proof.Machine
end

