-- ==== Sys2Proof/Machine/Ops.lean ====
section
/-! DEFINITION. The named operations over registers, memory, stack, screen, keypad and events
(spec/00_scope.md R11), raising an error (spec/60_exceptions.md R330), and the component reset
(spec/70_reset_and_hazards.md R380). -/

namespace Sys2Proof.Machine

/-! ### Raising an error

The block has no trap entry and no trap return (R336, R337): the shared operation is `raise`. -/

/-- `raise E(info)` (R11, R330): the operation ends at once and keeps none of its writes, so the
outcome carries the error and no state; the block stays in the state it had before. -/
def raise (e : Fault) : Result := .fault e

/-- The codes 1 to 7 of the errors (R331). -/
def Fault.code : Fault → Nat
  | .invalidOpcode _ _ _ => 1
  | .notInitialized _ => 2
  | .alreadyInitialized => 3
  | .romTooLarge _ => 4
  | .invalidKeyIndex _ => 5
  | .stackOverflow _ _ => 6
  | .stackUnderflow _ => 7

/-! ### General registers (R20) -/

/-- `V[r]`. -/
def State.reg (s : State) (r : Reg) : Byte := s.V[r]

/-- `V[r] <- b`. -/
def State.setReg (s : State) (r : Reg) (b : Byte) : State := { s with V := s.V.set r b }

/-! ### Address register, program counter (R23, R26) -/

/-- `I <- w`. -/
def State.setI (s : State) (w : Word) : State := { s with I := w }

/-- `pc <- target`. -/
def State.setPc (s : State) (target : Word) : State := { s with pc := target }

/-- The fetch address `a` of the executing instruction, whose `pc` already is `trunc_16(a + 2)`
(R23, R132). -/
def State.fetchAddr (s : State) : Word := s.pc - 2

/-- `skip` when the condition holds: `pc <- trunc_16(pc + 2)` (R11, R186). -/
def State.skipIf (s : State) (c : Bool) : State := if c then s.setPc (s.pc + 2) else s

/-! ### Memory (R32, R44, R63) -/

/-- What a byte that nothing has written since the reset reads as: the font, then zero (R44). -/
def Memory.unlisted (font : Font) (a : Nat) : Byte := if h : a < 80 then font[a] else 0

/-- The byte listed for an address. -/
def Memory.lookup : Memory → Nat → Option Byte
  | [], _ => none
  | (k, b) :: m, a => if a = k then some b else Memory.lookup m a

/-- `M[a]`. -/
def Memory.read (font : Font) (m : Memory) (a : Nat) : Byte :=
  (Memory.lookup m a).getD (Memory.unlisted font a)

/-- Lists a byte at its place in the rising order. -/
def Memory.insert : Memory → Nat → Byte → Memory
  | [], a, b => [(a, b)]
  | (k, c) :: m, a, b =>
    if a < k then (a, b) :: (k, c) :: m
    else if a = k then (a, b) :: m
    else (k, c) :: Memory.insert m a b

/-- Unlists an address. -/
def Memory.erase (m : Memory) (a : Nat) : Memory := m.filter (fun c => c.1 ≠ a)

/-- `M[a] <- b`, in canonical form: a byte equal to what the unlisted address reads as is unlisted. -/
def Memory.write (font : Font) (m : Memory) (a : Nat) (b : Byte) : Memory :=
  if b = Memory.unlisted font a then Memory.erase m a else Memory.insert m a b

/-- The canonical form: addresses strictly rising and inside 0x000 to 0xFFF, and no entry equal to
what its unlisted address reads as. -/
abbrev Memory.wf (font : Font) (m : Memory) : Prop :=
  m.Pairwise (fun c d => c.1 < d.1) ∧ ∀ c ∈ m, c.1 < 4096 ∧ c.2 ≠ Memory.unlisted font c.1

/-- The memory cell of an address: the address modulo 4096 (R63). -/
def cellOf (a : Word) : Nat := a.toNat % 4096

/-- `MemRead(a, 1)` (R11, R63). -/
def State.readByte (s : State) (a : Word) : Byte := Memory.read s.config.font s.M (cellOf a)

/-- `MemWrite(a, 1, b)` (R11, R63). -/
def State.writeByte (s : State) (a : Word) (b : Byte) : State :=
  { s with M := Memory.write s.config.font s.M (cellOf a) b }

/-- Writes of several bytes, in the order of the list (R12). -/
def State.writeBytes (s : State) (writes : List (Word × Byte)) : State :=
  writes.foldl (fun t w => t.writeByte w.1 w.2) s

/-- Writes of several registers, in the order of the list (R12). -/
def State.setRegs (s : State) (writes : List (Reg × Byte)) : State :=
  writes.foldl (fun t w => t.setReg w.1 w.2) s

/-! ### Call stack (R27, R28) -/

/-- The stack entry a stack pointer names: `S[SP]`, with the index modulo 16. For `SP` in 0 to 15
the reduction changes nothing; above that it is the policy `Wrap` (R162, R163). -/
def stackIndex (sp : Byte) : Fin 16 := Fin.ofNat 16 sp.toNat

/-- `S[SP] <- w; SP <- SP + 1` (R162). -/
def State.push (s : State) (w : Word) : State :=
  { s with S := s.S.set (stackIndex s.SP) w, SP := s.SP + 1 }

/-- `SP <- SP - 1; pc <- S[SP]` (R163). The entry is not cleared. -/
def State.popPc (s : State) : State :=
  { s with SP := s.SP - 1, pc := s.S[stackIndex (s.SP - 1)] }

/-! ### Screen (R33) -/

/-- `FB[x][y]`: column `x`, row `y`. -/
def Framebuffer.pixel (fb : Framebuffer) (x : Fin 64) (y : Fin 32) : Bool := fb[y][x]

/-- `FB[x][y] <- FB[x][y] XOR 1`. -/
def Framebuffer.toggle (fb : Framebuffer) (x : Fin 64) (y : Fin 32) : Framebuffer :=
  fb.set y (fb[y].set x (!fb[y][x]))

/-- Every pixel off. -/
def Framebuffer.clear : Framebuffer := Vector.replicate 32 (Vector.replicate 64 false)

/-- All pixels in row-major order: pixel (x, y) at index `y * 64 + x` (R33). -/
def Framebuffer.rowMajor (fb : Framebuffer) : List Bool := fb.toList.flatMap Vector.toList

/-- The whole screen is replaced: by 00E0 and by a drawing (R33). -/
def State.setFB (s : State) (fb : Framebuffer) : State := { s with FB := fb }

/-- `FB[x][y]` of the state. -/
def State.pixel (s : State) (x : Fin 64) (y : Fin 32) : Bool := Framebuffer.pixel s.FB x y

/-! ### Keypad (R34) -/

/-- `K[k]`, the pure read `IsKeyDown(k)` (R345). -/
def State.key (s : State) (k : Key) : Bool := s.K[k]

/-- `K[k] <- d`. -/
def State.setKeyLevel (s : State) (k : Key) (d : Bool) : State := { s with K := s.K.set k d }

/-! ### Timers, wait sub-state, random draw (R29 to R31, R361) -/

/-- `DT <- b`. -/
def State.setDT (s : State) (b : Byte) : State := { s with DT := b }

/-- `ST <- b`. -/
def State.setST (s : State) (b : Byte) : State := { s with ST := b }

/-- `waiting <- 1; waitReg <- x` (R302). -/
def State.beginWait (s : State) (x : Reg) : State := { s with waiting := true, waitReg := x }

/-- `V[waitReg] <- zext_8(k); waiting <- 0` (R303). -/
def State.endWait (s : State) (k : Key) : State :=
  { s.setReg s.waitReg (BitVec.ofNat 8 k.val) with waiting := false }

/-- The value the next `draw rnd` takes: a free value (R221, R361). -/
def State.draw (s : State) : Byte := Config.rnd s.draws

/-- The environment has been asked for one draw more: the next one is fresh (R221). -/
def State.countDraw (s : State) : State := { s with draws := s.draws + 1 }

/-! ### Events (R353) -/

/-- Emits an event of the current operation. -/
def State.emit (s : State) (e : Event) : State := { s with events := s.events ++ [e] }

/-- An operation starts with no event emitted: none is queued from the one before (R353). -/
def State.clearEvents (s : State) : State := { s with events := [] }

/-! ### Component reset (R380) -/

/-- The component reset: every piece of state to its reset value, `initialized` unchanged, no event.
The parameters and the count of draws belong to the environment and stay. -/
def State.componentReset (s : State) : State :=
  { State.powerOn with initialized := s.initialized, draws := s.draws, config := s.config }

end Sys2Proof.Machine
end

