-- ==== Sys2Proof/Machine/Flags.lean ====
section
/-! DEFINITION. The values the instructions write to the one flag, VF (spec/10_state.md R25,
spec/43_alu.md R201, R216 to R220). -/

namespace Sys2Proof.Machine

/-- A flag as a register value: 1 or 0 (R25). -/
def flagByte (c : Bool) : Byte := if c then 1 else 0

/-- The carry of 8XY4: the exact sum of two bytes is above 255 (R216). -/
def carry (a b : Byte) : Bool := decide (255 < a.toNat + b.toNat)

/-- No borrow in `a - b`: `a >= b`, unsigned (R217, R219). -/
def noBorrow (a b : Byte) : Bool := decide (b.toNat ≤ a.toNat)

/-- The bit 8XY6 shifts out: bit 0 of the source (R218). -/
def shiftedOutRight (b : Byte) : Bool := b.getLsbD 0

/-- The bit 8XYE shifts out: bit 7 of the source (R220). -/
def shiftedOutLeft (b : Byte) : Bool := b.getLsbD 7

/-- `V[15] <- flag` (R25). -/
def State.setFlag (s : State) (c : Bool) : State := s.setReg VF (flagByte c)

/-- `V[x]` first, then VF, so that the flag stays when x = F (R201). -/
def State.setRegAndFlag (s : State) (x : Reg) (b : Byte) (c : Bool) : State :=
  (s.setReg x b).setFlag c

end Sys2Proof.Machine
end

