-- ==== Sys2Proof/Machine/Alu.lean ====
section
/-! DEFINITION. Register loads and ALU: 6XNN, 7XNN, 8XY0 to 8XY7, 8XYE, CXNN (spec/43_alu.md). Every
operand is read from the state before the instruction writes (R201). -/

namespace Sys2Proof.Machine

/-- R210. -/
def execLdB (x : Reg) (nn : Byte) (s : State) : Result := .next (s.setReg x nn)

/-- R211: modulo 256, no flag. -/
def execAddB (x : Reg) (nn : Byte) (s : State) : Result := .next (s.setReg x (s.reg x + nn))

/-- R212. -/
def execLdR (x y : Reg) (s : State) : Result := .next (s.setReg x (s.reg y))

/-- R213. -/
def execOrR (x y : Reg) (s : State) : Result := .next (s.setReg x (s.reg x ||| s.reg y))

/-- R214. -/
def execAndR (x y : Reg) (s : State) : Result := .next (s.setReg x (s.reg x &&& s.reg y))

/-- R215. -/
def execXorR (x y : Reg) (s : State) : Result := .next (s.setReg x (s.reg x ^^^ s.reg y))

/-- R216: VF is the carry out of bit 7. -/
def execAddR (x y : Reg) (s : State) : Result :=
  .next (s.setRegAndFlag x (s.reg x + s.reg y) (carry (s.reg x) (s.reg y)))

/-- R217: VF is 1 when there is no borrow. -/
def execSub (x y : Reg) (s : State) : Result :=
  .next (s.setRegAndFlag x (s.reg x - s.reg y) (noBorrow (s.reg x) (s.reg y)))

/-- R218: VY is shifted; VF is the bit shifted out; the old VX is not read. -/
def execShr (x y : Reg) (s : State) : Result :=
  .next (s.setRegAndFlag x (s.reg y >>> 1) (shiftedOutRight (s.reg y)))

/-- R219: VF is 1 when there is no borrow. -/
def execSubn (x y : Reg) (s : State) : Result :=
  .next (s.setRegAndFlag x (s.reg y - s.reg x) (noBorrow (s.reg y) (s.reg x)))

/-- R220: VY is shifted; VF is the bit shifted out; the old VX is not read. -/
def execShl (x y : Reg) (s : State) : Result :=
  .next (s.setRegAndFlag x (s.reg y <<< 1) (shiftedOutLeft (s.reg y)))

/-- R221: the draw is a free value, and each execution takes a fresh one. -/
def execRnd (x : Reg) (nn : Byte) (s : State) : Result :=
  .next (s.countDraw.setReg x (s.draw &&& nn))

end Sys2Proof.Machine
end

