-- ==== Sys2Proof/Machine/ControlFlow.lean ====
section
/-! DEFINITION. Control transfer: 0NNN, 00EE, 1NNN, 2NNN, BNNN (spec/41_control_flow.md). In every
meaning `s.pc` is already the fetch address plus 2 (spec/40_step_engine.md R132). -/

namespace Sys2Proof.Machine

/-- R160: nothing beyond the step's own `pc` advance; NNN is ignored. -/
def execSys (_nnn : Addr12) (s : State) : Result := .next s

/-- R161. -/
def execJp (nnn : Addr12) (s : State) : Result := .next (s.setPc (addr16 nnn))

/-- R162: under `Fault` a full stack raises `StackOverflow(a, SP)`; under `Wrap` the push wraps. -/
def execCall (nnn : Addr12) (s : State) : Result :=
  match s.config.stackErrorPolicy with
  | .fault =>
    if 16 ≤ s.SP.toNat then raise (.stackOverflow s.fetchAddr s.SP)
    else .next ((s.push s.pc).setPc (addr16 nnn))
  | .wrap => .next ((s.push s.pc).setPc (addr16 nnn))

/-- R163: under `Fault` an empty stack raises `StackUnderflow(a)`; under `Wrap` the pop wraps. -/
def execRet (s : State) : Result :=
  match s.config.stackErrorPolicy with
  | .fault => if s.SP = 0 then raise (.stackUnderflow s.fetchAddr) else .next s.popPc
  | .wrap => .next s.popPc

/-- R164: always V0, and the 16-bit sum is kept. -/
def execJpV0 (nnn : Addr12) (s : State) : Result :=
  .next (s.setPc (addr16 nnn + zext16 (s.reg V0)))

end Sys2Proof.Machine
end

