-- ==== Sys2Proof/Machine/Blitter.lean ====
section
/-! DEFINITION. The sprite blitter: `DrawSprite(spriteBytes, x, y)` (spec/45_display.md R271, R272). -/

namespace Sys2Proof.Machine

/-- A drawing under way: the screen, and whether a set pixel has been cleared so far (R272). -/
structure Blit where
  fb  : Framebuffer
  hit : Bool
  deriving DecidableEq, Repr

/-- One set sprite bit meets its pixel: the collision is noted, then the pixel toggles (R271). -/
def Blit.touch (p : Blit) (x : Fin 64) (y : Fin 32) : Blit :=
  { fb := Framebuffer.toggle p.fb x y, hit := p.hit || Framebuffer.pixel p.fb x y }

/-- The column of sprite bit `b`: `(x0 + b) mod 64` (R271). -/
def column (x0 : Byte) (b : Nat) : Fin 64 := Fin.ofNat 64 (x0.toNat + b)

/-- The screen row of sprite row `r`: `(y0 + r) mod 32` (R271). -/
def line (y0 : Byte) (r : Nat) : Fin 32 := Fin.ofNat 32 (y0.toNat + r)

/-- Bit `b` of a sprite row, counted from the left: `row[7 - b]` (R271). -/
def spriteBit (row : Byte) (b : Nat) : Bool := row.getLsbD (7 - b)

/-- One sprite row, from b = 0 (the most significant bit, leftmost) to b = 7 (R271). -/
def blitRow (x0 : Byte) (y : Fin 32) (row : Byte) (p : Blit) : Blit :=
  (List.range 8).foldl (fun q b => if spriteBit row b then q.touch (column x0 b) y else q) p

/-- The sprite rows from row number `r` on, top to bottom (R271). -/
def blitRows (x0 y0 : Byte) : List Byte → Nat → Blit → Blit
  | [], _, p => p
  | row :: rest, r, p => blitRows x0 y0 rest (r + 1) (blitRow x0 (line y0 r) row p)

/-- `DrawSprite`: the screen after the whole sprite, and the collision (R271, R272). -/
def drawSprite (fb : Framebuffer) (rows : List Byte) (x0 y0 : Byte) : Blit :=
  blitRows x0 y0 rows 0 { fb := fb, hit := false }

end Sys2Proof.Machine
end

