-- ==== Sys2Proof/Machine/Operands.lean ====
section
/-! DEFINITION. The operand forms of the instructions: effective addresses, register ranges, the key
index, decimal digits and sprite rows (spec/30_encoding.md R93, spec/44_index_memory.md R246). -/

namespace Sys2Proof.Machine

/-- The one addressing mode: `I + i`, reduced modulo 4096 at the access (R246, R63). -/
def State.effAddr (s : State) (i : Nat) : Word := s.I + BitVec.ofNat 16 i

/-- The registers V0 to VX, rising, X included (R93, R244). -/
def regsUpTo (x : Reg) : List Reg := (List.finRange 16).filter (· ≤ x)

/-- The bytes FX55 stores: `V[i]` to `M[I + i]` for i = 0 to X (R244). -/
def State.regStores (s : State) (x : Reg) : List (Word × Byte) :=
  (regsUpTo x).map (fun r => (s.effAddr r.val, s.reg r))

/-- The registers FX65 loads: `M[I + i]` to `V[i]` for i = 0 to X (R245). -/
def State.regLoads (s : State) (x : Reg) : List (Reg × Byte) :=
  (regsUpTo x).map (fun r => (r, s.readByte (s.effAddr r.val)))

/-- `trunc_16(I + X + 1)`, what FX55 and FX65 leave in `I` (R244, R245). -/
def State.nextI (s : State) (x : Reg) : Word := s.I + BitVec.ofNat 16 (x.val + 1)

/-- The hundreds digit, `v div 100` (R243). -/
def hundreds (v : Byte) : Byte := BitVec.ofNat 8 (v.toNat / 100)

/-- The tens digit, `(v div 10) mod 10` (R243). -/
def tens (v : Byte) : Byte := BitVec.ofNat 8 (v.toNat / 10 % 10)

/-- The ones digit, `v mod 10` (R243). -/
def ones (v : Byte) : Byte := BitVec.ofNat 8 (v.toNat % 10)

/-- The bytes FX33 stores: the decimal digits of `V[x]` to `M[I]`, `M[I+1]`, `M[I+2]` (R243). -/
def State.decimalStores (s : State) (x : Reg) : List (Word × Byte) :=
  [(s.effAddr 0, hundreds (s.reg x)), (s.effAddr 1, tens (s.reg x)), (s.effAddr 2, ones (s.reg x))]

/-- The address of the glyph of a digit: `digit * 5` from `FONT_ADDR = 0x000`, unmasked (R242). -/
def glyphAddr (digit : Byte) : Word := zext16 digit * 5

/-- A key index operand: a key when the value is at most 15, and nothing otherwise (R184, R185). -/
def keyOperand (v : Byte) : Option Key := if h : v.toNat < 16 then some ⟨v.toNat, h⟩ else none

/-- The sprite of DXYN: `MemRead(I + r, 1)` for r = 0 to N - 1 (R271). -/
def State.spriteRows (s : State) (n : RowCount) : List Byte :=
  (List.range n.val).map (fun r => s.readByte (s.effAddr r))

end Sys2Proof.Machine
end

