-- ==== Sys2Proof/Machine/Display.lean ====
section
/-! DEFINITION. Display instructions: 00E0, DXYN (spec/45_display.md). -/

namespace Sys2Proof.Machine

/-- R270, R275: every pixel off, and the event even on a clear screen. -/
def execCls (s : State) : Result := .next ((s.setFB Framebuffer.clear).emit .displayChanged)

/-- What DXYN draws: the sprite at `I`, with its corner at (V[x], V[y]) (R271). -/
def State.sprite (s : State) (x y : Reg) (n : RowCount) : Blit :=
  drawSprite s.FB (s.spriteRows n) (s.reg x) (s.reg y)

/-- R271, R275, R276: VF is always written, and the event is always emitted, also for N = 0. -/
def execDrw (x y : Reg) (n : RowCount) (s : State) : Result :=
  .next (((s.setFB (s.sprite x y n).fb).setFlag (s.sprite x y n).hit).emit .displayChanged)

end Sys2Proof.Machine
end

