-- ==== Sys2Proof/Machine/IndexMemory.lean ====
section
/-! DEFINITION. Index register and memory transfers: ANNN, FX1E, FX29, FX33, FX55, FX65
(spec/44_index_memory.md). -/

namespace Sys2Proof.Machine

/-- R240. -/
def execLdI (nnn : Addr12) (s : State) : Result := .next (s.setI (addr16 nnn))

/-- R241: modulo 2^16, no clamp, no flag. -/
def execAddI (x : Reg) (s : State) : Result := .next (s.setI (s.I + zext16 (s.reg x)))

/-- R242. -/
def execLdF (x : Reg) (s : State) : Result := .next (s.setI (glyphAddr (s.reg x)))

/-- R243: `I` is unchanged. -/
def execLdB3 (x : Reg) (s : State) : Result := .next (s.writeBytes (s.decimalStores x))

/-- R244: V0 to VX to memory, then `I` past the last byte. -/
def execStRegs (x : Reg) (s : State) : Result :=
  .next ((s.writeBytes (s.regStores x)).setI (s.nextI x))

/-- R245: memory to V0 to VX, then `I` past the last byte. -/
def execLdRegs (x : Reg) (s : State) : Result :=
  .next ((s.setRegs (s.regLoads x)).setI (s.nextI x))

end Sys2Proof.Machine
end

