-- ==== Sys2Proof/Machine/Skips.lean ====
section
/-! DEFINITION. Conditional skips: 3XNN, 4XNN, 5XY0, 9XY0, EX9E, EXA1 (spec/42_skips.md). -/

namespace Sys2Proof.Machine

/-- R180. -/
def execSeB (x : Reg) (nn : Byte) (s : State) : Result := .next (s.skipIf (s.reg x == nn))

/-- R181. -/
def execSneB (x : Reg) (nn : Byte) (s : State) : Result := .next (s.skipIf (s.reg x != nn))

/-- R182. -/
def execSeR (x y : Reg) (s : State) : Result := .next (s.skipIf (s.reg x == s.reg y))

/-- R183. -/
def execSneR (x y : Reg) (s : State) : Result := .next (s.skipIf (s.reg x != s.reg y))

/-- R184: the key's level is read; a value above 15 raises `InvalidKeyIndex`. -/
def execSkp (x : Reg) (s : State) : Result :=
  match keyOperand (s.reg x) with
  | some k => .next (s.skipIf (s.key k))
  | none => raise (.invalidKeyIndex (s.reg x).toNat)

/-- R185: the key's level is read; a value above 15 raises `InvalidKeyIndex`. -/
def execSknp (x : Reg) (s : State) : Result :=
  match keyOperand (s.reg x) with
  | some k => .next (s.skipIf (!s.key k))
  | none => raise (.invalidKeyIndex (s.reg x).toNat)

end Sys2Proof.Machine
end

