-- ==== Sys2Proof/Machine/TimersKeypad.lean ====
section
/-! DEFINITION. Timer and keypad instructions: FX07, FX0A, FX15, FX18 (spec/46_timers_keypad.md). -/

namespace Sys2Proof.Machine

/-- R300: the value before this step's own tick. -/
def execLdVDT (x : Reg) (s : State) : Result := .next (s.setReg x s.DT)

/-- R302: the wait begins; the press edge of `setKey` ends it (R303). The keypad is not read. -/
def execLdVK (x : Reg) (s : State) : Result := .next (s.beginWait x)

/-- R301. -/
def execLdDT (x : Reg) (s : State) : Result := .next (s.setDT (s.reg x))

/-- R304. -/
def execLdST (x : Reg) (s : State) : Result := .next (s.setST (s.reg x))

end Sys2Proof.Machine
end

