-- ==== Sys2Proof/Syntax.lean ====
section
/-! DEFINITION. The 35 instructions, one constructor for each row of spec/opcode_table.json
(spec/30_encoding.md R94, R104). The names are the spec's descriptor names. -/

namespace Sys2Proof

/-- The instruction descriptor of R94: the kind and the operand fields it uses. -/
inductive Instr where
  /-- 0NNN, `SYS nnn` (R160). -/
  | sys (nnn : Addr12)
  /-- 00E0, `CLS` (R270). -/
  | cls
  /-- 00EE, `RET` (R163). -/
  | ret
  /-- 1NNN, `JP nnn` (R161). -/
  | jp (nnn : Addr12)
  /-- 2NNN, `CALL nnn` (R162). -/
  | call (nnn : Addr12)
  /-- 3XNN, `SE Vx, nn` (R180). -/
  | seB (x : Reg) (nn : Byte)
  /-- 4XNN, `SNE Vx, nn` (R181). -/
  | sneB (x : Reg) (nn : Byte)
  /-- 5XY0, `SE Vx, Vy` (R182). -/
  | seR (x y : Reg)
  /-- 6XNN, `LD Vx, nn` (R210). -/
  | ldB (x : Reg) (nn : Byte)
  /-- 7XNN, `ADD Vx, nn` (R211). -/
  | addB (x : Reg) (nn : Byte)
  /-- 8XY0, `LD Vx, Vy` (R212). -/
  | ldR (x y : Reg)
  /-- 8XY1, `OR Vx, Vy` (R213). -/
  | orR (x y : Reg)
  /-- 8XY2, `AND Vx, Vy` (R214). -/
  | andR (x y : Reg)
  /-- 8XY3, `XOR Vx, Vy` (R215). -/
  | xorR (x y : Reg)
  /-- 8XY4, `ADD Vx, Vy` (R216). -/
  | addR (x y : Reg)
  /-- 8XY5, `SUB Vx, Vy` (R217). -/
  | sub (x y : Reg)
  /-- 8XY6, `SHR Vx, Vy` (R218). -/
  | shr (x y : Reg)
  /-- 8XY7, `SUBN Vx, Vy` (R219). -/
  | subn (x y : Reg)
  /-- 8XYE, `SHL Vx, Vy` (R220). -/
  | shl (x y : Reg)
  /-- 9XY0, `SNE Vx, Vy` (R183). -/
  | sneR (x y : Reg)
  /-- ANNN, `LD I, nnn` (R240). -/
  | ldI (nnn : Addr12)
  /-- BNNN, `JP V0, nnn` (R164). -/
  | jpV0 (nnn : Addr12)
  /-- CXNN, `RND Vx, nn` (R221). -/
  | rnd (x : Reg) (nn : Byte)
  /-- DXYN, `DRW Vx, Vy, n` (R271). -/
  | drw (x y : Reg) (n : RowCount)
  /-- EX9E, `SKP Vx` (R184). -/
  | skp (x : Reg)
  /-- EXA1, `SKNP Vx` (R185). -/
  | sknp (x : Reg)
  /-- FX07, `LD Vx, DT` (R300). -/
  | ldVDT (x : Reg)
  /-- FX0A, `LD Vx, K` (R302, R303). -/
  | ldVK (x : Reg)
  /-- FX15, `LD DT, Vx` (R301). -/
  | ldDT (x : Reg)
  /-- FX18, `LD ST, Vx` (R304). -/
  | ldST (x : Reg)
  /-- FX1E, `ADD I, Vx` (R241). -/
  | addI (x : Reg)
  /-- FX29, `LD F, Vx` (R242). -/
  | ldF (x : Reg)
  /-- FX33, `LD B, Vx` (R243). -/
  | ldB3 (x : Reg)
  /-- FX55, `LD [I], Vx` (R244). -/
  | stRegs (x : Reg)
  /-- FX65, `LD Vx, [I]` (R245). -/
  | ldRegs (x : Reg)
  deriving DecidableEq, Repr

end Sys2Proof
end

