-- ==== Sys2Proof/WellFormed.lean ====
section
/-! DEFINITION. Which instructions have an encoding of their own (spec/30_encoding.md R96, R103).
The operand types carry every other bound. -/

namespace Sys2Proof

/-- The two opcodes with top nibble 0 that are not 0NNN: 0x00E0 is CLS and 0x00EE is RET (R96). -/
def sysExcluded : List Addr12 := [0x0E0#12, 0x0EE#12]

/-- A well-formed instruction is one the decoder can produce. The one check is R96's: the field of
a 0NNN is neither 0x0E0 nor 0x0EE, because those words are CLS and RET. -/
def Instr.wf : Instr → Bool
  | .sys nnn => !sysExcluded.contains nnn
  | .cls => true
  | .ret => true
  | .jp _ => true
  | .call _ => true
  | .seB _ _ => true
  | .sneB _ _ => true
  | .seR _ _ => true
  | .ldB _ _ => true
  | .addB _ _ => true
  | .ldR _ _ => true
  | .orR _ _ => true
  | .andR _ _ => true
  | .xorR _ _ => true
  | .addR _ _ => true
  | .sub _ _ => true
  | .shr _ _ => true
  | .subn _ _ => true
  | .shl _ _ => true
  | .sneR _ _ => true
  | .ldI _ => true
  | .jpV0 _ => true
  | .rnd _ _ => true
  | .drw _ _ _ => true
  | .skp _ => true
  | .sknp _ => true
  | .ldVDT _ => true
  | .ldVK _ => true
  | .ldDT _ => true
  | .ldST _ => true
  | .addI _ => true
  | .ldF _ => true
  | .ldB3 _ => true
  | .stRegs _ => true
  | .ldRegs _ => true

end Sys2Proof
end

