-- ==== Sys2Proof/Decode.lean ====
section
/-! DEFINITION. The decoder, the encoder and the byte order of an opcode
(spec/30_encoding.md R90 to R103, spec/20_memory.md R60). -/

namespace Sys2Proof

/-! ### Fields of an opcode word (R91) -/

/-- `T = op[15:12]`, the dispatch nibble. -/
def fieldT (op : Word) : BitVec 4 := op.extractLsb' 12 4

/-- `X = op[11:8]`. -/
def fieldX (op : Word) : Reg := (op.extractLsb' 8 4).toFin

/-- `Y = op[7:4]`. -/
def fieldY (op : Word) : Reg := (op.extractLsb' 4 4).toFin

/-- `N = op[3:0]`. -/
def fieldN (op : Word) : RowCount := (op.extractLsb' 0 4).toFin

/-- `NN = op[7:0]`. -/
def fieldNN (op : Word) : Byte := op.extractLsb' 0 8

/-- `NNN = op[11:0]`. -/
def fieldNNN (op : Word) : Addr12 := op.extractLsb' 0 12

/-- A register number, or a row count, as the four bits of its field. -/
def nibble (r : Fin 16) : BitVec 4 := BitVec.ofFin r

/-! ### The decoder (R94) -/

/-- Why an opcode is invalid, one name for each row of R101's table, and the one way a byte list
can be too short to hold an opcode. -/
inductive InvalidOpcode where
  /-- 5XYn with n ≠ 0 (R97). -/
  | lowNibbleOf5
  /-- 8XYn with n in 8, 9, A, B, C, D, F (R98). -/
  | lowNibbleOf8
  /-- 9XYn with n ≠ 0 (R97). -/
  | lowNibbleOf9
  /-- EXnn with nn not 9E or A1 (R99). -/
  | lowByteOfE
  /-- FXnn with nn none of the nine of R100. -/
  | lowByteOfF
  /-- Fewer than two bytes: no opcode (R90). A fetch never meets it. -/
  | truncated
  deriving DecidableEq, Repr

/-- The sub-opcodes of top nibble 8 (R98). -/
def decode8 (x y : Reg) : Nat → Except InvalidOpcode Instr
  | 0x0 => .ok (.ldR x y)
  | 0x1 => .ok (.orR x y)
  | 0x2 => .ok (.andR x y)
  | 0x3 => .ok (.xorR x y)
  | 0x4 => .ok (.addR x y)
  | 0x5 => .ok (.sub x y)
  | 0x6 => .ok (.shr x y)
  | 0x7 => .ok (.subn x y)
  | 0xE => .ok (.shl x y)
  | _ => .error .lowNibbleOf8

/-- The sub-opcodes of top nibble E (R99). -/
def decodeE (x : Reg) : Nat → Except InvalidOpcode Instr
  | 0x9E => .ok (.skp x)
  | 0xA1 => .ok (.sknp x)
  | _ => .error .lowByteOfE

/-- The sub-opcodes of top nibble F (R100). -/
def decodeF (x : Reg) : Nat → Except InvalidOpcode Instr
  | 0x07 => .ok (.ldVDT x)
  | 0x0A => .ok (.ldVK x)
  | 0x15 => .ok (.ldDT x)
  | 0x18 => .ok (.ldST x)
  | 0x1E => .ok (.addI x)
  | 0x29 => .ok (.ldF x)
  | 0x33 => .ok (.ldB3 x)
  | 0x55 => .ok (.stRegs x)
  | 0x65 => .ok (.ldRegs x)
  | _ => .error .lowByteOfF

/-- The opcodes with top nibble 0: 0x00E0 and 0x00EE go before 0NNN (R96, R103). -/
def decode0 (op : Word) : Instr :=
  if op = 0x00E0#16 then .cls else if op = 0x00EE#16 then .ret else .sys (fieldNNN op)

/-- `decode(op)` of R94: a total function from a 16-bit opcode to one instruction or the verdict
invalid. The last arm is top nibble F: a nibble has no value above 15. -/
def decodeWord (op : Word) : Except InvalidOpcode Instr :=
  match (fieldT op).toNat with
  | 0x0 => .ok (decode0 op)
  | 0x1 => .ok (.jp (fieldNNN op))
  | 0x2 => .ok (.call (fieldNNN op))
  | 0x3 => .ok (.seB (fieldX op) (fieldNN op))
  | 0x4 => .ok (.sneB (fieldX op) (fieldNN op))
  | 0x5 => if fieldN op = 0 then .ok (.seR (fieldX op) (fieldY op)) else .error .lowNibbleOf5
  | 0x6 => .ok (.ldB (fieldX op) (fieldNN op))
  | 0x7 => .ok (.addB (fieldX op) (fieldNN op))
  | 0x8 => decode8 (fieldX op) (fieldY op) (fieldN op).val
  | 0x9 => if fieldN op = 0 then .ok (.sneR (fieldX op) (fieldY op)) else .error .lowNibbleOf9
  | 0xA => .ok (.ldI (fieldNNN op))
  | 0xB => .ok (.jpV0 (fieldNNN op))
  | 0xC => .ok (.rnd (fieldX op) (fieldNN op))
  | 0xD => .ok (.drw (fieldX op) (fieldY op) (fieldN op))
  | 0xE => decodeE (fieldX op) (fieldNN op).toNat
  | _ => decodeF (fieldX op) (fieldNN op).toNat

/-- An opcode as its two bytes, the high byte at the lower address (R60, R90). -/
def opcodeBytes (op : Word) : List Byte := [op.extractLsb' 8 8, op.extractLsb' 0 8]

/-- Two bytes as an opcode: the first supplies bits 15 to 8, the second bits 7 to 0 (R60). -/
def opcodeOf (hi lo : Byte) : Word := hi ++ lo

/-- Decoding a stream of bytes: one instruction and the bytes that follow it (R90). -/
def decodeBytes : List Byte → Except InvalidOpcode (Instr × List Byte)
  | hi :: lo :: rest =>
    match decodeWord (opcodeOf hi lo) with
    | .ok i => .ok (i, rest)
    | .error e => .error e
  | _ => .error .truncated

/-- The opcode of a table row's `nbits` bits `w`: every bit above `nbits` is 0, and an opcode has
16 bits, numbered as the table numbers them (R9, R90). -/
def tableOpcode (nbits w : Nat) : Word := BitVec.ofNat 16 (w % 2 ^ nbits)

/-- What the decoder reads from an instruction whose bits, numbered as spec/opcode_table.json
numbers them, are `w`. -/
def decodeTableWord (nbits w : Nat) : Option Instr :=
  match decodeBytes (opcodeBytes (tableOpcode nbits w)) with
  | .ok (i, _) => some i
  | .error _ => none

/-! ### The encoder (R92)

One function for each format of R92: a hex digit where the format fixes the nibble. -/

/-- Format FA: `T NNN`. -/
def encFA (t : BitVec 4) (nnn : Addr12) : Word := t ++ nnn

/-- Format FXB: `T X NN`. -/
def encFXB (t : BitVec 4) (x : Reg) (nn : Byte) : Word := t ++ nibble x ++ nn

/-- Format FXY: `T X Y sub`. -/
def encFXY (t : BitVec 4) (x y : Reg) (sub : BitVec 4) : Word := t ++ nibble x ++ nibble y ++ sub

/-- Format FXYN: `T X Y N`. -/
def encFXYN (t : BitVec 4) (x y : Reg) (n : RowCount) : Word := t ++ nibble x ++ nibble y ++ nibble n

/-- Format FXS: `T X sub`. -/
def encFXS (t : BitVec 4) (x : Reg) (sub : Byte) : Word := t ++ nibble x ++ sub

/-- The opcode of an instruction, from the match patterns of spec/opcode_table.json (R92). -/
def encode : Instr → Word
  | .sys nnn => encFA 0x0#4 nnn
  | .cls => 0x00E0#16
  | .ret => 0x00EE#16
  | .jp nnn => encFA 0x1#4 nnn
  | .call nnn => encFA 0x2#4 nnn
  | .seB x nn => encFXB 0x3#4 x nn
  | .sneB x nn => encFXB 0x4#4 x nn
  | .seR x y => encFXY 0x5#4 x y 0x0#4
  | .ldB x nn => encFXB 0x6#4 x nn
  | .addB x nn => encFXB 0x7#4 x nn
  | .ldR x y => encFXY 0x8#4 x y 0x0#4
  | .orR x y => encFXY 0x8#4 x y 0x1#4
  | .andR x y => encFXY 0x8#4 x y 0x2#4
  | .xorR x y => encFXY 0x8#4 x y 0x3#4
  | .addR x y => encFXY 0x8#4 x y 0x4#4
  | .sub x y => encFXY 0x8#4 x y 0x5#4
  | .shr x y => encFXY 0x8#4 x y 0x6#4
  | .subn x y => encFXY 0x8#4 x y 0x7#4
  | .shl x y => encFXY 0x8#4 x y 0xE#4
  | .sneR x y => encFXY 0x9#4 x y 0x0#4
  | .ldI nnn => encFA 0xA#4 nnn
  | .jpV0 nnn => encFA 0xB#4 nnn
  | .rnd x nn => encFXB 0xC#4 x nn
  | .drw x y n => encFXYN 0xD#4 x y n
  | .skp x => encFXS 0xE#4 x 0x9E#8
  | .sknp x => encFXS 0xE#4 x 0xA1#8
  | .ldVDT x => encFXS 0xF#4 x 0x07#8
  | .ldVK x => encFXS 0xF#4 x 0x0A#8
  | .ldDT x => encFXS 0xF#4 x 0x15#8
  | .ldST x => encFXS 0xF#4 x 0x18#8
  | .addI x => encFXS 0xF#4 x 0x1E#8
  | .ldF x => encFXS 0xF#4 x 0x29#8
  | .ldB3 x => encFXS 0xF#4 x 0x33#8
  | .stRegs x => encFXS 0xF#4 x 0x55#8
  | .ldRegs x => encFXS 0xF#4 x 0x65#8

/-- The instruction as the bytes the memory holds (R60, R90). -/
def encodeBytes (i : Instr) : List Byte := opcodeBytes (encode i)

end Sys2Proof
end

