-- ==== Sys2Proof/Machine/Timers.lean ====
section
/-! DEFINITION. The timer tick (spec/60_exceptions.md R340 to R342). -/

namespace Sys2Proof.Machine

/-- `if DT > 0: DT <- DT - 1` (R340). -/
def State.tickDelay (s : State) : State := if s.DT = 0 then s else s.setDT (s.DT - 1)

/-- `if ST > 0: emit requestBeep(ST); ST <- 0` (R341). -/
def State.tickSound (s : State) : State :=
  if s.ST = 0 then s else (s.emit (.requestBeep s.ST)).setST 0

/-- `timerTick()`: the delay timer, then the sound timer (R342). -/
def State.timerTick (s : State) : State := s.tickDelay.tickSound

/-- The end of a step that completes: one tick under `PerStep`, none under `External` (R135). -/
def State.stepTick (s : State) : State :=
  match s.config.timerCadence with
  | .perStep => s.timerTick
  | .external => s

end Sys2Proof.Machine
end

