-- ==== Sys2Proof/Machine/Engine.lean ====
section
/-! DEFINITION. What the step does around an instruction: the fetch, the `pc` advance, the decode
error, the end of a step and the step in the wait sub-state (spec/40_step_engine.md R130 to R138),
and the placing of an instruction where the next step fetches. -/

namespace Sys2Proof.Machine

/-- The fetched opcode: `MemRead(pc, 1) ++ MemRead(pc + 1, 1)`, high byte first (R131). -/
def State.opcode (s : State) : Word := opcodeOf (s.readByte s.pc) (s.readByte (s.pc + 1))

/-- The instruction sees `pc = trunc_16(a + 2)` and no event emitted yet (R132, R353). -/
def State.beginInstr (s : State) : State := s.clearEvents.setPc (s.pc + 2)

/-- `InvalidOpcode(op, a)` with the dispatch nibble (R133, R331, R332). -/
def State.invalidOpcode (s : State) : Fault := .invalidOpcode s.opcode s.pc (fieldT s.opcode)

/-- The end of a step: the tick of R135 when the instruction completed; an error keeps nothing. -/
def endStep : Result → Result
  | .next t => .next t.stepTick
  | .fault e => .fault e
  | .refused r => .refused r

/-- A step in the wait sub-state: no fetch, nothing but the tick of R135 (R137). -/
def State.waitStep (s : State) : State := s.clearEvents.stepTick

/-- The state with an opcode stored where the next step fetches, and with that step free to fetch:
initialized and not waiting (R130, R137). It stands for `initialize` and `load` of a program placed
at `pc` (R384; notes/assumptions/4.md). -/
def State.placeOpcode (s : State) (op : Word) : State :=
  { ((s.writeByte s.pc (op.extractLsb' 8 8)).writeByte (s.pc + 1) (op.extractLsb' 0 8)) with
    initialized := true, waiting := false }

end Sys2Proof.Machine
end

