-- ==== Sys2Proof/Machine/Step.lean ====
section
/-! DEFINITION. The `step` host operation (spec/40_step_engine.md R136). -/

namespace Sys2Proof.Machine

/-- `step()` of R136: the lifecycle guard, the wait sub-state, or fetch, advance, decode, execute
and tick. An error keeps nothing of the step (R330). -/
def step (s : State) : Host.Outcome State Fault Refusal :=
  if s.initialized = false then raise (.notInitialized .step)
  else if s.waiting = true then .next s.waitStep
  else
    match decodeWord s.opcode with
    | .error _ => raise s.invalidOpcode
    | .ok i => endStep (exec i s.beginInstr)

/-- `s` with the instruction of a table row's bits stored where the next step fetches. -/
def State.withFetchWord (s : State) (nbits w : Nat) : State := s.placeOpcode (tableOpcode nbits w)

end Sys2Proof.Machine
end

