-- ==== Sys2Proof/Machine/HostInterface.lean ====
section
/-! DEFINITION. The host operations beside `step` (spec/60_exceptions.md R340 to R362,
spec/70_reset_and_hazards.md R380 to R386), and one interface over all of them. -/

namespace Sys2Proof.Machine

/-- `ROM_MAX = 4096 - 0x200` bytes (R7, R383). -/
def romMax : Nat := 3584

/-- `initialize()` (R382): the second call raises `AlreadyInitialized`. -/
def hostInit (s : State) : Result :=
  if s.initialized = true then raise .alreadyInitialized
  else .next { s.componentReset with initialized := true }

/-- The bytes `load` copies: byte `j` to `M[0x200 + j]` (R383). -/
def romStores (rom : List Byte) : List (Word × Byte) :=
  rom.zipIdx.map (fun c => (loadAddr + BitVec.ofNat 16 c.2, c.1))

/-- `load(bytes)` (R383): the guard, the size, the component reset, then the copy; the second
component is the length it returns. -/
def hostLoad (rom : List Byte) (s : State) : Host.Outcome (State × Nat) Fault Refusal :=
  if s.initialized = false then .fault (.notInitialized .load)
  else if romMax < rom.length then .fault (.romTooLarge rom.length)
  else .next (s.componentReset.writeBytes (romStores rom), rom.length)

/-- `tick()` (R354): one timer tick, waiting or not. Under `PerStep` there is no such operation. -/
def hostTick (s : State) : Result :=
  match s.config.timerCadence with
  | .perStep => .refused .noTickOperation
  | .external =>
    if s.initialized = false then raise (.notInitialized .tick) else .next s.clearEvents.timerTick

/-- A key's level becomes `d` (R344): a press edge is notified and ends a wait (R303), a release
edge is notified, and a repeated level does nothing. -/
def State.keyEvent (s : State) (k : Key) (d : Bool) : State :=
  if s.key k = false ∧ d = true then
    let t := (s.setKeyLevel k d).emit (.keyPressed k)
    if s.waiting = true then t.endWait k else t
  else if s.key k = true ∧ d = false then (s.setKeyLevel k d).emit (.keyReleased k)
  else s.setKeyLevel k d

/-- `setKey(k, d)` (R344): the guard, the index, then the key's new level. -/
def hostSetKey (k : Nat) (d : Bool) (s : State) : Result :=
  if s.initialized = false then raise (.notInitialized .setKey)
  else if h : k < 16 then .next (s.clearEvents.keyEvent ⟨k, h⟩ d)
  else raise (.invalidKeyIndex k)

/-- `readFramebuffer()` (R357): all pixels in row-major order; no guard, no effect. -/
def readFramebuffer (s : State) : List Bool := Framebuffer.rowMajor s.FB

/-! ### All host operations (R350) -/

/-- A call of the host (R350). -/
inductive HostOp where
  /-- `initialize()` (R382). -/
  | init
  /-- `load(bytes)` (R383). -/
  | load (rom : List Byte)
  /-- `step()` (R136). -/
  | step
  /-- `tick()` (R354). -/
  | tick
  /-- `setKey(k, d)` (R344). -/
  | setKey (k : Nat) (d : Bool)
  /-- `readFramebuffer()` (R357). -/
  | readFramebuffer
  deriving DecidableEq, Repr

/-- What a call returns to the host beside its events (R138, R330, R350). -/
inductive Reply where
  /-- `Ok`. -/
  | ok
  /-- The size `load` returns. -/
  | size (n : Nat)
  /-- The pixels `readFramebuffer` returns. -/
  | pixels (p : List Bool)
  /-- The error the operation raised (R331). -/
  | error (e : Fault)
  /-- The interface has no such operation (R354). -/
  | absent (r : Refusal)
  deriving DecidableEq, Repr

/-- The block after a call, the reply, and the events the call emitted (R353). -/
structure Response where
  state  : State
  reply  : Reply
  events : List Event
  deriving DecidableEq, Repr

/-- An operation that raises an error leaves the state exactly as it was and emits no event (R330). -/
def respond (s : State) : Result → Response
  | .next t => { state := t, reply := .ok, events := t.events }
  | .fault e => { state := s, reply := .error e, events := [] }
  | .refused r => { state := s, reply := .absent r, events := [] }

/-- `load`'s response: its length on success (R383). -/
def respondSize (s : State) : Host.Outcome (State × Nat) Fault Refusal → Response
  | .next (t, n) => { state := t, reply := .size n, events := t.events }
  | .fault e => { state := s, reply := .error e, events := [] }
  | .refused r => { state := s, reply := .absent r, events := [] }

/-- One call of the host, atomic and complete (R351). -/
def perform (s : State) : HostOp → Response
  | .init => respond s (hostInit s)
  | .load rom => respondSize s (hostLoad rom s)
  | .step => respond s (step s)
  | .tick => respond s (hostTick s)
  | .setKey k d => respond s (hostSetKey k d s)
  | .readFramebuffer => { state := s, reply := .pixels (readFramebuffer s), events := [] }

/-- A serialized sequence of calls: the state after the last one (R351, R360). -/
def performAll (s : State) (calls : List HostOp) : State :=
  calls.foldl (fun t c => (perform t c).state) s

end Sys2Proof.Machine
end

