-- ==== Sys2Proof/Safety.lean ====
section
/-! DEFINITION. The terms the claims use: the parts of the state, what a frame is, completion, the
invariant of a safe run, and the tables of the spec that speak of all instructions. -/

namespace Sys2Proof

open Machine

/-! ### Parts of the state and frames -/

/-- Every part of the state that can change alone (spec/10_state.md section 9). -/
inductive Part where
  | reg (r : Reg)
  | I
  | pc
  | SP
  | entry (j : Fin 16)
  | DT
  | ST
  | cell (a : Fin 4096)
  | pixel (x : Fin 64) (y : Fin 32)
  | key (k : Key)
  | waiting
  | waitReg
  | initialized
  | events
  | draws
  | config
  deriving DecidableEq, Repr

/-- The part has the same value in `t` as in `s`. A memory cell is read through the model's own read
of one byte. -/
def Part.Same (s t : State) : Part → Prop
  | .reg r => t.reg r = s.reg r
  | .I => t.I = s.I
  | .pc => t.pc = s.pc
  | .SP => t.SP = s.SP
  | .entry j => t.S[j] = s.S[j]
  | .DT => t.DT = s.DT
  | .ST => t.ST = s.ST
  | .cell a => t.readByte (BitVec.ofNat 16 a.val) = s.readByte (BitVec.ofNat 16 a.val)
  | .pixel x y => t.pixel x y = s.pixel x y
  | .key k => t.key k = s.key k
  | .waiting => t.waiting = s.waiting
  | .waitReg => t.waitReg = s.waitReg
  | .initialized => t.initialized = s.initialized
  | .events => t.events = s.events
  | .draws => t.draws = s.draws
  | .config => t.config = s.config

/-- The memory cell an access at an address reaches: the address modulo 4096 (R63). -/
def Part.byteAt (a : Word) : Part := .cell (Fin.ofNat 4096 a.toNat)

/-- The frame: every part outside `P` is as it was. -/
def ChangesOnly (P : Part → Prop) (s t : State) : Prop := ∀ p, ¬ P p → p.Same s t

/-- The instruction completes, and its next state is as `Q` says. -/
def Completes (i : Instr) (s : State) (Q : State → Prop) : Prop := ∃ t, exec i s = .next t ∧ Q t

/-! ### The invariant of a safe run -/

/-- Under the policy `Fault`, `SP` lies in 0 to 16 (R28). -/
def StackInBounds (s : State) : Prop := s.config.stackErrorPolicy = .fault → s.SP.toNat ≤ 16

/-- What every operation keeps: memory in canonical form, and the stack pointer in its bounds. -/
structure SafeState (s : State) : Prop where
  memory : Memory.wf s.config.font s.M
  stack : StackInBounds s

/-! ### Errors of instructions (R331, R334) -/

/-- The error an instruction raises, each with the condition and the info the spec gives: 2NNN on a
full stack and 00EE on an empty one under `Fault`, EX9E and EXA1 on a value above 15. -/
inductive Raises : Instr → State → Fault → Prop where
  | overflow (nnn : Addr12) (s : State) :
      s.config.stackErrorPolicy = .fault → 16 ≤ s.SP.toNat →
      Raises (.call nnn) s (.stackOverflow (s.pc - 2) s.SP)
  | underflow (s : State) :
      s.config.stackErrorPolicy = .fault → s.SP.toNat = 0 →
      Raises .ret s (.stackUnderflow (s.pc - 2))
  | keyDown (x : Reg) (s : State) :
      15 < (s.reg x).toNat → Raises (.skp x) s (.invalidKeyIndex (s.reg x).toNat)
  | keyUp (x : Reg) (s : State) :
      15 < (s.reg x).toNat → Raises (.sknp x) s (.invalidKeyIndex (s.reg x).toNat)

/-! ### Tables over all instructions -/

/-- The `pc` after a step that fetches an instruction at `a` and completes: the table of R24, where
`s` is the state before the step. -/
def pcAfter (a : Word) (s : State) : Instr → Word
  | .jp nnn => nnn.setWidth 16
  | .call nnn => nnn.setWidth 16
  | .jpV0 nnn => nnn.setWidth 16 + (s.reg 0).setWidth 16
  | .ret => s.S[Fin.ofNat 16 (s.SP - 1).toNat]
  | .seB x nn => if s.reg x = nn then a + 4 else a + 2
  | .sneB x nn => if s.reg x = nn then a + 2 else a + 4
  | .seR x y => if s.reg x = s.reg y then a + 4 else a + 2
  | .sneR x y => if s.reg x = s.reg y then a + 2 else a + 4
  | .skp x => if s.key (Fin.ofNat 16 (s.reg x).toNat) then a + 4 else a + 2
  | .sknp x => if s.key (Fin.ofNat 16 (s.reg x).toNat) then a + 2 else a + 4
  | .sys _ => a + 2
  | .cls => a + 2
  | .ldB _ _ => a + 2
  | .addB _ _ => a + 2
  | .ldR _ _ => a + 2
  | .orR _ _ => a + 2
  | .andR _ _ => a + 2
  | .xorR _ _ => a + 2
  | .addR _ _ => a + 2
  | .sub _ _ => a + 2
  | .shr _ _ => a + 2
  | .subn _ _ => a + 2
  | .shl _ _ => a + 2
  | .ldI _ => a + 2
  | .rnd _ _ => a + 2
  | .drw _ _ _ => a + 2
  | .ldVDT _ => a + 2
  | .ldVK _ => a + 2
  | .ldDT _ => a + 2
  | .ldST _ => a + 2
  | .addI _ => a + 2
  | .ldF _ => a + 2
  | .ldB3 _ => a + 2
  | .stRegs _ => a + 2
  | .ldRegs _ => a + 2

/-- The general registers an instruction may write when it executes: the table of R22. FX0A writes
its register at the press edge, not when it executes. -/
def writesReg : Instr → Reg → Prop
  | .ldB x _, r => r = x
  | .addB x _, r => r = x
  | .ldR x _, r => r = x
  | .orR x _, r => r = x
  | .andR x _, r => r = x
  | .xorR x _, r => r = x
  | .addR x _, r => r = x ∨ r = VF
  | .sub x _, r => r = x ∨ r = VF
  | .shr x _, r => r = x ∨ r = VF
  | .subn x _, r => r = x ∨ r = VF
  | .shl x _, r => r = x ∨ r = VF
  | .rnd x _, r => r = x
  | .drw _ _ _, r => r = VF
  | .ldVDT x, r => r = x
  | .ldRegs x, r => r ≤ x
  | .sys _, _ => False
  | .cls, _ => False
  | .ret, _ => False
  | .jp _, _ => False
  | .call _, _ => False
  | .seB _ _, _ => False
  | .sneB _ _, _ => False
  | .seR _ _, _ => False
  | .sneR _ _, _ => False
  | .ldI _, _ => False
  | .jpV0 _, _ => False
  | .skp _, _ => False
  | .sknp _, _ => False
  | .ldVK _, _ => False
  | .ldDT _, _ => False
  | .ldST _, _ => False
  | .addI _, _ => False
  | .ldF _, _ => False
  | .ldB3 _, _ => False
  | .stRegs _, _ => False

/-- The two display instructions (R33, R275). -/
def isDisplay : Instr → Bool
  | .cls => true
  | .drw _ _ _ => true
  | _ => false

/-! ### Sprites -/

/-- A set bit of the sprite of DXYN lies on pixel (px, py): row `r`, column bit `b`, counted from the
most significant, at `((V[x] + b) mod 64, (V[y] + r) mod 32)` (R271). -/
def SpriteCovers (s : State) (x y : Reg) (n : RowCount) (px : Fin 64) (py : Fin 32) : Prop :=
  ∃ r b : Nat, r < n.val ∧ b < 8 ∧
    (s.readByte (s.I + BitVec.ofNat 16 r)).getLsbD (7 - b) = true ∧
    px.val = ((s.reg x).toNat + b) % 64 ∧ py.val = ((s.reg y).toNat + r) % 32

end Sys2Proof
end

