-- ==== Sys2Proof/Certificates/Slice0/Obligations.lean ====
section
/-! DEFINITION. The statements for the provers. In a statement about `exec`, `s.pc` is the fetch
address plus 2, as R132 has it. -/

open Sys2Proof Sys2Proof.Machine

/-! ### Encoding -/

/-- R92, R94: every well-formed instruction is what its own opcode decodes to. -/
def Obligations.DecodeOfEncode : Prop :=
  ∀ i : Instr, i.wf = true → decodeWord (encode i) = .ok i

/-- R95 to R103: no bit of a valid opcode is lost, and no opcode decodes to an ill-formed term. -/
def Obligations.EncodeOfDecode : Prop :=
  ∀ (op : Word) (i : Instr), decodeWord op = .ok i → encode i = op ∧ i.wf = true

/-- R101's table: the opcodes that are invalid, by top nibble, and no others. -/
def Obligations.InvalidOpcodesAreTheTabledOnes : Prop :=
  ∀ op : Word, (∃ e, decodeWord op = .error e) ↔
    (op.toNat / 4096 = 5 ∧ op.toNat % 16 ≠ 0) ∨
    (op.toNat / 4096 = 8 ∧ op.toNat % 16 ∈ [8, 9, 10, 11, 12, 13, 15]) ∨
    (op.toNat / 4096 = 9 ∧ op.toNat % 16 ≠ 0) ∨
    (op.toNat / 4096 = 14 ∧ op.toNat % 256 ∉ [0x9E, 0xA1]) ∨
    (op.toNat / 4096 = 15 ∧
      op.toNat % 256 ∉ [0x07, 0x0A, 0x15, 0x18, 0x1E, 0x29, 0x33, 0x55, 0x65])

/-- Words of spec/95_test_vectors.md Parts 1 and 2, read by the decoder (R94). -/
def Obligations.SampleWordsDecode : Prop :=
  decodeWord 0x0123#16 = .ok (.sys 0x123#12) ∧ decodeWord 0x2206#16 = .ok (.call 0x206#12) ∧
  decodeWord 0x3A42#16 = .ok (.seB 10 0x42#8) ∧ decodeWord 0x8124#16 = .ok (.addR 1 2) ∧
  decodeWord 0xF265#16 = .ok (.ldRegs 2) ∧ decodeWord 0xDAB5#16 = .ok (.drw 10 11 5) ∧
  decodeWord 0xF50A#16 = .ok (.ldVK 5)

/-! ### Control flow -/

/-- R160. -/
def Obligations.SysDoesNothing : Prop :=
  ∀ (nnn : Addr12) (s : State),
    (nnn ≠ 0x0E0#12 → nnn ≠ 0x0EE#12 → decodeWord (0x0#4 ++ nnn) = .ok (.sys nnn)) ∧
    exec (.sys nnn) s = .next s

/-- R161. -/
def Obligations.JpSetsPc : Prop :=
  ∀ (nnn : Addr12) (s : State), decodeWord (0x1#4 ++ nnn) = .ok (.jp nnn) ∧
    Completes (.jp nnn) s fun t => t.pc.toNat = nnn.toNat ∧ ChangesOnly (· = .pc) s t

/-- R162, both policies: the push, the jump, and the overflow under `Fault`. -/
def Obligations.CallPushesReturnAddress : Prop :=
  ∀ (nnn : Addr12) (s : State), decodeWord (0x2#4 ++ nnn) = .ok (.call nnn) ∧
    (s.config.stackErrorPolicy = .fault → ∀ h : s.SP.toNat < 16,
      Completes (.call nnn) s fun t =>
        t.S[s.SP.toNat] = s.pc ∧ t.SP.toNat = s.SP.toNat + 1 ∧ t.pc.toNat = nnn.toNat ∧
        ChangesOnly (· ∈ [.pc, .SP, .entry ⟨s.SP.toNat, h⟩]) s t) ∧
    (s.config.stackErrorPolicy = .fault → 16 ≤ s.SP.toNat →
      exec (.call nnn) s = .fault (.stackOverflow (s.pc - 2) s.SP)) ∧
    (s.config.stackErrorPolicy = .wrap →
      Completes (.call nnn) s fun t =>
        t.S[Fin.ofNat 16 s.SP.toNat] = s.pc ∧ t.SP.toNat = (s.SP.toNat + 1) % 256 ∧
        t.pc.toNat = nnn.toNat ∧
        ChangesOnly (· ∈ [.pc, .SP, .entry (Fin.ofNat 16 s.SP.toNat)]) s t)

/-- R163, both policies: the pop, and the underflow under `Fault`. Under `Fault`, `SP ≤ 16` is part
of the invariant. -/
def Obligations.RetPopsReturnAddress : Prop :=
  ∀ s : State, decodeWord 0x00EE#16 = .ok .ret ∧
    (s.config.stackErrorPolicy = .fault → 0 < s.SP.toNat → ∀ _ : s.SP.toNat ≤ 16,
      Completes .ret s fun t =>
        t.SP.toNat = s.SP.toNat - 1 ∧ t.pc = s.S[s.SP.toNat - 1] ∧
        ChangesOnly (· ∈ [.pc, .SP]) s t) ∧
    (s.config.stackErrorPolicy = .fault → s.SP.toNat = 0 →
      exec .ret s = .fault (.stackUnderflow (s.pc - 2))) ∧
    (s.config.stackErrorPolicy = .wrap →
      Completes .ret s fun t =>
        t.SP.toNat = (s.SP.toNat + 255) % 256 ∧
        t.pc = s.S[Fin.ofNat 16 ((s.SP.toNat + 255) % 256)] ∧
        ChangesOnly (· ∈ [.pc, .SP]) s t)

/-- R164. -/
def Obligations.JpV0AddsV0 : Prop :=
  ∀ (nnn : Addr12) (s : State), decodeWord (0xB#4 ++ nnn) = .ok (.jpV0 nnn) ∧
    Completes (.jpV0 nnn) s fun t =>
      t.pc.toNat = nnn.toNat + (s.reg 0).toNat ∧ ChangesOnly (· = .pc) s t

/-- W7 with R162 and R163: a return undoes the call, whatever ran in between, as long as that left
the stack as the call left it. -/
def Obligations.ReturnUndoesCall : Prop :=
  ∀ (nnn : Addr12) (s t u w : State), exec (.call nnn) s = .next t →
    u.SP = t.SP → u.S = t.S → exec .ret u = .next w → w.pc = s.pc ∧ w.SP = s.SP

/-! ### Skips -/

/-- R180, R181. -/
def Obligations.SkipOnImmediate : Prop :=
  ∀ (x : Reg) (nn : Byte) (s : State),
    decodeWord (0x3#4 ++ nibble x ++ nn) = .ok (.seB x nn) ∧
    decodeWord (0x4#4 ++ nibble x ++ nn) = .ok (.sneB x nn) ∧
    (Completes (.seB x nn) s fun t =>
      t.pc = (if s.reg x = nn then s.pc + 2 else s.pc) ∧ ChangesOnly (· = .pc) s t) ∧
    (Completes (.sneB x nn) s fun t =>
      t.pc = (if s.reg x = nn then s.pc else s.pc + 2) ∧ ChangesOnly (· = .pc) s t)

/-- R182, R183. Every other low nibble is invalid (R97); the names of the two decode errors are the
model's choice (notes/assumptions/17.md). -/
def Obligations.SkipOnRegisters : Prop :=
  ∀ (x y : Reg) (s : State),
    decodeWord (0x5#4 ++ nibble x ++ nibble y ++ 0x0#4) = .ok (.seR x y) ∧
    decodeWord (0x9#4 ++ nibble x ++ nibble y ++ 0x0#4) = .ok (.sneR x y) ∧
    (∀ n : BitVec 4, n ≠ 0 →
      decodeWord (0x5#4 ++ nibble x ++ nibble y ++ n) = .error .lowNibbleOf5 ∧
      decodeWord (0x9#4 ++ nibble x ++ nibble y ++ n) = .error .lowNibbleOf9) ∧
    (Completes (.seR x y) s fun t =>
      t.pc = (if s.reg x = s.reg y then s.pc + 2 else s.pc) ∧ ChangesOnly (· = .pc) s t) ∧
    (Completes (.sneR x y) s fun t =>
      t.pc = (if s.reg x = s.reg y then s.pc else s.pc + 2) ∧ ChangesOnly (· = .pc) s t)

/-- R184, R185: the skip on a key's level, and the error on a value above 15. -/
def Obligations.SkipOnKey : Prop :=
  ∀ (x : Reg) (s : State),
    decodeWord (0xE#4 ++ nibble x ++ 0x9E#8) = .ok (.skp x) ∧
    decodeWord (0xE#4 ++ nibble x ++ 0xA1#8) = .ok (.sknp x) ∧
    (∀ h : (s.reg x).toNat < 16,
      (Completes (.skp x) s fun t =>
        t.pc = (if s.key ⟨(s.reg x).toNat, h⟩ = true then s.pc + 2 else s.pc) ∧
        ChangesOnly (· = .pc) s t) ∧
      (Completes (.sknp x) s fun t =>
        t.pc = (if s.key ⟨(s.reg x).toNat, h⟩ = true then s.pc else s.pc + 2) ∧
        ChangesOnly (· = .pc) s t)) ∧
    (15 < (s.reg x).toNat →
      exec (.skp x) s = .fault (.invalidKeyIndex (s.reg x).toNat) ∧
      exec (.sknp x) s = .fault (.invalidKeyIndex (s.reg x).toNat))

/-! ### Loads and ALU -/

/-- R210, R212. -/
def Obligations.RegisterLoads : Prop :=
  ∀ (x y : Reg) (nn : Byte) (s : State),
    decodeWord (0x6#4 ++ nibble x ++ nn) = .ok (.ldB x nn) ∧
    decodeWord (0x8#4 ++ nibble x ++ nibble y ++ 0x0#4) = .ok (.ldR x y) ∧
    (Completes (.ldB x nn) s fun t => t.reg x = nn ∧ ChangesOnly (· = .reg x) s t) ∧
    (Completes (.ldR x y) s fun t => t.reg x = s.reg y ∧ ChangesOnly (· = .reg x) s t)

/-- R211: the sum is taken modulo 256 and VF is no carry. -/
def Obligations.AddImmediate : Prop :=
  ∀ (x : Reg) (nn : Byte) (s : State),
    decodeWord (0x7#4 ++ nibble x ++ nn) = .ok (.addB x nn) ∧
    Completes (.addB x nn) s fun t =>
      (t.reg x).toNat = ((s.reg x).toNat + nn.toNat) % 256 ∧ ChangesOnly (· = .reg x) s t

/-- R213, R214, R215, bit by bit; VF changes only as the destination. -/
def Obligations.BitwiseOperations : Prop :=
  ∀ (x y : Reg) (s : State),
    decodeWord (0x8#4 ++ nibble x ++ nibble y ++ 0x1#4) = .ok (.orR x y) ∧
    decodeWord (0x8#4 ++ nibble x ++ nibble y ++ 0x2#4) = .ok (.andR x y) ∧
    decodeWord (0x8#4 ++ nibble x ++ nibble y ++ 0x3#4) = .ok (.xorR x y) ∧
    (Completes (.orR x y) s fun t => ChangesOnly (· = .reg x) s t ∧
      ∀ b, (t.reg x).getLsbD b = ((s.reg x).getLsbD b || (s.reg y).getLsbD b)) ∧
    (Completes (.andR x y) s fun t => ChangesOnly (· = .reg x) s t ∧
      ∀ b, (t.reg x).getLsbD b = ((s.reg x).getLsbD b && (s.reg y).getLsbD b)) ∧
    (Completes (.xorR x y) s fun t => ChangesOnly (· = .reg x) s t ∧
      ∀ b, (t.reg x).getLsbD b = ((s.reg x).getLsbD b ^^ (s.reg y).getLsbD b))

/-- R216: the low 8 bits of the exact sum, and VF its carry; for x = F the carry stays. -/
def Obligations.AddRegistersWithCarry : Prop :=
  ∀ (x y : Reg) (s : State),
    decodeWord (0x8#4 ++ nibble x ++ nibble y ++ 0x4#4) = .ok (.addR x y) ∧
    Completes (.addR x y) s fun t =>
      (x ≠ VF → (t.reg x).toNat = ((s.reg x).toNat + (s.reg y).toNat) % 256) ∧
      t.reg VF = (if 255 < (s.reg x).toNat + (s.reg y).toNat then 1 else 0) ∧
      ChangesOnly (· ∈ [.reg x, .reg VF]) s t

/-- R217, R219: the difference modulo 256, and VF = 1 exactly when there is no borrow. -/
def Obligations.SubtractWithNoBorrowFlag : Prop :=
  ∀ (x y : Reg) (s : State),
    decodeWord (0x8#4 ++ nibble x ++ nibble y ++ 0x5#4) = .ok (.sub x y) ∧
    decodeWord (0x8#4 ++ nibble x ++ nibble y ++ 0x7#4) = .ok (.subn x y) ∧
    (Completes (.sub x y) s fun t =>
      (x ≠ VF → (t.reg x).toNat = ((s.reg x).toNat + 256 - (s.reg y).toNat) % 256) ∧
      t.reg VF = (if (s.reg y).toNat ≤ (s.reg x).toNat then 1 else 0) ∧
      ChangesOnly (· ∈ [.reg x, .reg VF]) s t) ∧
    (Completes (.subn x y) s fun t =>
      (x ≠ VF → (t.reg x).toNat = ((s.reg y).toNat + 256 - (s.reg x).toNat) % 256) ∧
      t.reg VF = (if (s.reg x).toNat ≤ (s.reg y).toNat then 1 else 0) ∧
      ChangesOnly (· ∈ [.reg x, .reg VF]) s t)

/-- R218, R220: VY shifted by one with a zero moved in, and VF the bit shifted out. -/
def Obligations.ShiftsOfVy : Prop :=
  ∀ (x y : Reg) (s : State),
    decodeWord (0x8#4 ++ nibble x ++ nibble y ++ 0x6#4) = .ok (.shr x y) ∧
    decodeWord (0x8#4 ++ nibble x ++ nibble y ++ 0xE#4) = .ok (.shl x y) ∧
    (Completes (.shr x y) s fun t =>
      (x ≠ VF → (t.reg x).toNat = (s.reg y).toNat / 2) ∧
      (t.reg VF).toNat = (s.reg y).toNat % 2 ∧
      ChangesOnly (· ∈ [.reg x, .reg VF]) s t) ∧
    (Completes (.shl x y) s fun t =>
      (x ≠ VF → (t.reg x).toNat = (s.reg y).toNat * 2 % 256) ∧
      (t.reg VF).toNat = (s.reg y).toNat / 128 ∧
      ChangesOnly (· ∈ [.reg x, .reg VF]) s t)

/-- R221, R361: the draw is a free value, so this holds for every value of it; the next execution
takes the next draw. -/
def Obligations.RandomMasksFreshDraw : Prop :=
  ∀ (x : Reg) (nn : Byte) (s : State),
    decodeWord (0xC#4 ++ nibble x ++ nn) = .ok (.rnd x nn) ∧
    Completes (.rnd x nn) s fun t =>
      t.reg x = Config.rnd s.draws &&& nn ∧ t.draws = s.draws + 1 ∧
      ChangesOnly (· ∈ [.reg x, .draws]) s t

/-! ### Index register and memory -/

/-- R240, R241, R242. -/
def Obligations.IndexRegisterLoads : Prop :=
  ∀ (x : Reg) (nnn : Addr12) (s : State),
    decodeWord (0xA#4 ++ nnn) = .ok (.ldI nnn) ∧
    decodeWord (0xF#4 ++ nibble x ++ 0x1E#8) = .ok (.addI x) ∧
    decodeWord (0xF#4 ++ nibble x ++ 0x29#8) = .ok (.ldF x) ∧
    (Completes (.ldI nnn) s fun t => t.I.toNat = nnn.toNat ∧ ChangesOnly (· = .I) s t) ∧
    (Completes (.addI x) s fun t =>
      t.I.toNat = (s.I.toNat + (s.reg x).toNat) % 65536 ∧ ChangesOnly (· = .I) s t) ∧
    (Completes (.ldF x) s fun t =>
      t.I.toNat = (s.reg x).toNat * 5 ∧ ChangesOnly (· = .I) s t)

/-- R243: the three digits at `I`, `I + 1`, `I + 2`, and no other byte of memory. -/
def Obligations.DecimalDigitsStored : Prop :=
  ∀ (x : Reg) (s : State),
    decodeWord (0xF#4 ++ nibble x ++ 0x33#8) = .ok (.ldB3 x) ∧
    Completes (.ldB3 x) s fun t =>
      (t.readByte (s.effAddr 0)).toNat = (s.reg x).toNat / 100 ∧
      (t.readByte (s.effAddr 1)).toNat = (s.reg x).toNat / 10 % 10 ∧
      (t.readByte (s.effAddr 2)).toNat = (s.reg x).toNat % 10 ∧
      ChangesOnly (fun p => ∃ i : Nat, i < 3 ∧ p = Part.byteAt (s.effAddr i)) s t

/-- R244: V0 to VX at `I` to `I + X`, no other byte of memory, and `I` past the last. -/
def Obligations.RegistersStored : Prop :=
  ∀ (x : Reg) (s : State),
    decodeWord (0xF#4 ++ nibble x ++ 0x55#8) = .ok (.stRegs x) ∧
    Completes (.stRegs x) s fun t =>
      (∀ r : Reg, r ≤ x → t.readByte (s.effAddr r.val) = s.reg r) ∧
      t.I.toNat = (s.I.toNat + x.val + 1) % 65536 ∧
      ChangesOnly (fun p => p = .I ∨ ∃ i : Nat, i ≤ x.val ∧ p = Part.byteAt (s.effAddr i)) s t

/-- R245: the bytes at `I` to `I + X` in V0 to VX, no other register, and `I` past the last. -/
def Obligations.RegistersLoaded : Prop :=
  ∀ (x : Reg) (s : State),
    decodeWord (0xF#4 ++ nibble x ++ 0x65#8) = .ok (.ldRegs x) ∧
    Completes (.ldRegs x) s fun t =>
      (∀ r : Reg, r ≤ x → t.reg r = s.readByte (s.effAddr r.val)) ∧
      t.I.toNat = (s.I.toNat + x.val + 1) % 65536 ∧
      ChangesOnly (fun p => p = .I ∨ ∃ r : Reg, r ≤ x ∧ p = .reg r) s t

/-- R244 with R245: FX65 at the address of an FX55 gives the stored registers back. -/
def Obligations.LoadAfterStoreRestores : Prop :=
  ∀ (x : Reg) (s t u w : State), exec (.stRegs x) s = .next t →
    u.M = t.M → u.config = t.config → u.I = s.I → exec (.ldRegs x) u = .next w →
    ∀ r : Reg, r ≤ x → w.reg r = s.reg r

/-- R26: bits 15 to 12 of `I` change no access. Two states that differ only in those bits give the
same memory, registers and screen after FX33, FX55, FX65 and DXYN. -/
def Obligations.HighBitsOfIChangeNoAccess : Prop :=
  ∀ (x y : Reg) (n : RowCount) (s t u : State) (J : Word) (i : Instr),
    i ∈ [.ldB3 x, .stRegs x, .ldRegs x, .drw x y n] → J.toNat % 4096 = s.I.toNat % 4096 →
    exec i s = .next t → exec i (s.setI J) = .next u → u.M = t.M ∧ u.V = t.V ∧ u.FB = t.FB

/-! ### Display -/

/-- R270, R275. -/
def Obligations.ClsClearsScreen : Prop :=
  ∀ s : State, decodeWord 0x00E0#16 = .ok .cls ∧
    Completes .cls s fun t =>
      (∀ x y, t.pixel x y = false) ∧ t.events = s.events ++ [.displayChanged] ∧
      ChangesOnly (fun p => p = .events ∨ ∃ x y, p = .pixel x y) s t

/-- R271, R275, R276: exactly the pixels under a set sprite bit toggle, and VF is 1 exactly when one
of them was on. -/
def Obligations.DrawTogglesCoveredPixels : Prop :=
  ∀ (x y : Reg) (n : RowCount) (s : State),
    decodeWord (0xD#4 ++ nibble x ++ nibble y ++ nibble n) = .ok (.drw x y n) ∧
    Completes (.drw x y n) s fun t =>
      (∀ px py, (SpriteCovers s x y n px py → t.pixel px py = !s.pixel px py) ∧
        (¬ SpriteCovers s x y n px py → t.pixel px py = s.pixel px py)) ∧
      ((∃ px py, SpriteCovers s x y n px py ∧ s.pixel px py = true) → t.reg VF = 1) ∧
      ((¬ ∃ px py, SpriteCovers s x y n px py ∧ s.pixel px py = true) → t.reg VF = 0) ∧
      t.events = s.events ++ [.displayChanged] ∧
      ChangesOnly (fun p => p = .reg VF ∨ p = .events ∨ ∃ px py, p = .pixel px py) s t

/-- R273, second law: the same sprite drawn again at the same place restores the screen. The VF clause
is what R271's pseudocode gives, not R273's words: VF is 1 exactly when the first draw turned a pixel
on (DEDUCED, notes/assumptions/8.md). -/
def Obligations.DrawingTwiceRestoresScreen : Prop :=
  ∀ (x y : Reg) (n : RowCount) (s t u w : State), exec (.drw x y n) s = .next t →
    u.FB = t.FB → u.M = s.M → u.config = s.config → u.I = s.I →
    u.reg x = s.reg x → u.reg y = s.reg y → exec (.drw x y n) u = .next w →
    w.FB = s.FB ∧
    (w.reg VF = 1 ↔ ∃ px py, SpriteCovers s x y n px py ∧ s.pixel px py = false)

/-- R273, third law: on a clear screen VF is 0. -/
def Obligations.DrawOnClearScreenNoCollision : Prop :=
  ∀ (x y : Reg) (n : RowCount) (s t : State), (∀ px py, s.pixel px py = false) →
    exec (.drw x y n) s = .next t → t.reg VF = 0

/-- R273, second and third law, in the case where its words agree with R271 and with each other (the
source's "self-XOR identity"): on a clear screen the first draw of a sprite with a set bit leaves
VF = 0, and the second clears the screen again and leaves VF = 1. -/
def Obligations.SecondDrawOnClearScreenCollides : Prop :=
  ∀ (x y : Reg) (n : RowCount) (s t u w : State), (∀ px py, s.pixel px py = false) →
    (∃ px py, SpriteCovers s x y n px py) → exec (.drw x y n) s = .next t →
    u.FB = t.FB → u.M = s.M → u.config = s.config → u.I = s.I →
    u.reg x = s.reg x → u.reg y = s.reg y → exec (.drw x y n) u = .next w →
    t.reg VF = 0 ∧ w.reg VF = 1 ∧ ∀ px py, w.pixel px py = false

/-- R273's clause as its words have it, for every screen: "If the sprite has at least one set bit,
the second draw sets VF = 1." It fails: a one-bit sprite on a lit pixel turns it off and then on.
Read so, the clause contradicts R271, R25 and R273's own third law, because the second draw then is on
a clear screen (notes/assumptions/8.md). -/
def Obligations.SecondDrawAlwaysCollides : Prop :=
  ∀ (x y : Reg) (n : RowCount) (s t u w : State), exec (.drw x y n) s = .next t →
    u.FB = t.FB → u.M = s.M → u.config = s.config → u.I = s.I →
    u.reg x = s.reg x → u.reg y = s.reg y → exec (.drw x y n) u = .next w →
    (∃ px py, SpriteCovers s x y n px py) → w.reg VF = 1

/-! ### Timers and keypad instructions -/

/-- R300, R301, R304. -/
def Obligations.TimerTransfers : Prop :=
  ∀ (x : Reg) (s : State),
    decodeWord (0xF#4 ++ nibble x ++ 0x07#8) = .ok (.ldVDT x) ∧
    decodeWord (0xF#4 ++ nibble x ++ 0x15#8) = .ok (.ldDT x) ∧
    decodeWord (0xF#4 ++ nibble x ++ 0x18#8) = .ok (.ldST x) ∧
    (Completes (.ldVDT x) s fun t => t.reg x = s.DT ∧ ChangesOnly (· = .reg x) s t) ∧
    (Completes (.ldDT x) s fun t => t.DT = s.reg x ∧ ChangesOnly (· = .DT) s t) ∧
    (Completes (.ldST x) s fun t => t.ST = s.reg x ∧ ChangesOnly (· = .ST) s t)

/-- R302: FX0A enters the wait, whichever keys are down, and VX is unchanged. -/
def Obligations.WaitForKeyBegins : Prop :=
  ∀ (x : Reg) (s : State),
    decodeWord (0xF#4 ++ nibble x ++ 0x0A#8) = .ok (.ldVK x) ∧
    Completes (.ldVK x) s fun t =>
      t.waiting = true ∧ t.waitReg = x ∧ ChangesOnly (· ∈ [.waiting, .waitReg]) s t

/-- R340, R341: one tick. -/
def Obligations.TimerTickCountsDown : Prop :=
  ∀ s : State,
    s.timerTick.DT.toNat = s.DT.toNat - 1 ∧ s.timerTick.ST = 0 ∧
    s.timerTick.events = s.events ++ (if 0 < s.ST.toNat then [.requestBeep s.ST] else []) ∧
    ChangesOnly (· ∈ [.DT, .ST, .events]) s s.timerTick

/-! ### The step -/

/-- R131 to R136: the bytes at `pc`, high byte first, are decoded, and the step is that instruction
on the advanced state, then the tick under `PerStep`. -/
def Obligations.StepRunsDecodedInstruction : Prop :=
  ∀ (s : State) (i : Instr), s.initialized = true → s.waiting = false →
    decodeWord (s.readByte s.pc ++ s.readByte (s.pc + 1)) = .ok i →
    (∀ e, exec i { s with events := [], pc := s.pc + 2 } = .fault e → step s = .fault e) ∧
    (∀ t, exec i { s with events := [], pc := s.pc + 2 } = .next t →
      step s = .next (if s.config.timerCadence = .perStep then t.timerTick else t))

/-- R101, R133, R332: a step raises `InvalidOpcode` exactly when it fetches an invalid opcode, and
the error records the opcode, the fetch address and the dispatch nibble. -/
def Obligations.InvalidOpcodeRaisedExactlyWhenFetched : Prop :=
  ∀ (s : State) (op a : Word) (d : BitVec 4),
    step s = .fault (.invalidOpcode op a d) ↔
      s.initialized = true ∧ s.waiting = false ∧
      op = s.readByte s.pc ++ s.readByte (s.pc + 1) ∧ a = s.pc ∧ d.toNat = op.toNat / 4096 ∧
      ∃ e, decodeWord op = .error e

/-- R137: while waiting, a step completes and changes nothing but what its tick changes under
`PerStep`; under `External` not even that. -/
def Obligations.WaitingStepOnlyTicks : Prop :=
  ∀ s : State, s.initialized = true → s.waiting = true →
    (s.config.timerCadence = .external →
      ∃ t, step s = .next t ∧ t.events = [] ∧ ChangesOnly (· = .events) s t) ∧
    (s.config.timerCadence = .perStep →
      ∃ t, step s = .next t ∧ t.DT.toNat = s.DT.toNat - 1 ∧ t.ST = 0 ∧
        t.events = (if 0 < s.ST.toNat then [.requestBeep s.ST] else []) ∧
        ChangesOnly (· ∈ [.DT, .ST, .events]) s t)

/-- R138: a step answers `Ok` or one of five errors, and never a refusal. -/
def Obligations.StepResults : Prop :=
  ∀ s : State, (∃ t, step s = .next t) ∨
    (∃ e, step s = .fault e ∧ (e = .notInitialized .step ∨ (∃ op a d, e = .invalidOpcode op a d) ∨
      (∃ a sp, e = .stackOverflow a sp) ∨ (∃ a, e = .stackUnderflow a) ∨
      (∃ k, 15 < k ∧ e = .invalidKeyIndex k)))

/-- R331, R334: an instruction raises exactly the errors of the table, on exactly its conditions,
and completes otherwise. -/
def Obligations.InstructionErrorsAreTheTabledOnes : Prop :=
  ∀ (i : Instr) (s : State),
    (∀ e, exec i s = .fault e ↔ Raises i s e) ∧ ((∀ e, ¬ Raises i s e) → ∃ t, exec i s = .next t)

/-- R138, R275, R355: the events of a step that completes: displayChanged for a display instruction,
then the tick's tone request, and nothing else. -/
def Obligations.EventsOfAStep : Prop :=
  ∀ (s t : State) (i : Instr), step s = .next t → s.waiting = false → decodeWord s.opcode = .ok i →
    ∃ beep, t.events = (if isDisplay i then [.displayChanged] else []) ++ beep ∧
      (beep = [] ∨ (s.config.timerCadence = .perStep ∧ ∃ d, 0 < d.toNat ∧ beep = [.requestBeep d]))

/-- R24, the whole table: how a step leaves `pc`, by the instruction fetched, in the wait sub-state,
and after an error. -/
def Obligations.PcAfterEachStep : Prop :=
  (∀ (s t : State) (i : Instr), step s = .next t → s.waiting = false →
    decodeWord s.opcode = .ok i → t.pc = pcAfter s.pc s i) ∧
  (∀ s t : State, step s = .next t → s.waiting = true → t.pc = s.pc) ∧
  (∀ (s : State) (e : Fault), (perform s .step).reply = .error e →
    (perform s .step).state.pc = s.pc)

/-- R22: which general registers each instruction writes. -/
def Obligations.RegistersWrittenByEachInstruction : Prop :=
  ∀ (i : Instr) (s t : State) (r : Reg), exec i s = .next t → ¬ writesReg i r → t.reg r = s.reg r

/-- R64: no instruction but FX33 and FX55 writes memory. -/
def Obligations.OnlyStoresWriteMemory : Prop :=
  ∀ (i : Instr) (s t : State), exec i s = .next t →
    (∀ x, i ≠ .ldB3 x) → (∀ x, i ≠ .stRegs x) → ∀ a : Word, t.readByte a = s.readByte a

/-- R27, R33, R34, R29 to R31: the stack is written only by 2NNN, `SP` changes only in 2NNN and 00EE,
the screen only in the display instructions, each timer only in its own instruction, the wait only in
FX0A; no instruction changes a key, the lifecycle guard or a parameter. -/
def Obligations.EachPartHasItsWriters : Prop :=
  ∀ (i : Instr) (s t : State), exec i s = .next t →
    ((∀ nnn, i ≠ .call nnn) → t.S = s.S) ∧
    ((∀ nnn, i ≠ .call nnn) → i ≠ .ret → t.SP = s.SP) ∧
    (isDisplay i = false → t.FB = s.FB) ∧
    ((∀ x, i ≠ .ldDT x) → t.DT = s.DT) ∧
    ((∀ x, i ≠ .ldST x) → t.ST = s.ST) ∧
    ((∀ x, i ≠ .ldVK x) → t.waiting = s.waiting ∧ t.waitReg = s.waitReg) ∧
    t.K = s.K ∧ t.initialized = s.initialized ∧ t.config = s.config

/-! ### Reset and the host's operations -/

/-- R380, R44, R45: what the component reset leaves. -/
def Obligations.ComponentResetValues : Prop :=
  ∀ s : State,
    s.componentReset.pc = 0x200#16 ∧ (∀ r, s.componentReset.reg r = 0) ∧ s.componentReset.I = 0 ∧
    s.componentReset.SP = 0 ∧ (∀ j : Fin 16, s.componentReset.S[j] = 0) ∧
    s.componentReset.DT = 0 ∧ s.componentReset.ST = 0 ∧
    s.componentReset.waiting = false ∧ s.componentReset.waitReg = 0 ∧
    (∀ a : Word, s.componentReset.readByte a =
      if h : a.toNat % 4096 < 80 then s.config.font[a.toNat % 4096] else 0) ∧
    (∀ x y, s.componentReset.pixel x y = false) ∧ (∀ k, s.componentReset.key k = false) ∧
    s.componentReset.initialized = s.initialized ∧ s.componentReset.events = []

/-- R382: the first `initialize` is the component reset and sets the guard; the second fails. -/
def Obligations.InitializeOnce : Prop :=
  ∀ s : State,
    (s.initialized = false → ∃ t, hostInit s = .next t ∧ t.initialized = true ∧ t.events = [] ∧
      ChangesOnly (· = .initialized) s.componentReset t) ∧
    (s.initialized = true → hostInit s = .fault .alreadyInitialized)

/-- R383: the guard, the size limit, and the reset followed by the copy. -/
def Obligations.LoadResetsThenCopies : Prop :=
  ∀ (rom : List Byte) (s : State),
    (s.initialized = false → hostLoad rom s = .fault (.notInitialized .load)) ∧
    (s.initialized = true → 3584 < rom.length →
      hostLoad rom s = .fault (.romTooLarge rom.length)) ∧
    (s.initialized = true → rom.length ≤ 3584 →
      ∃ t, hostLoad rom s = .next (t, rom.length) ∧
        (∀ (j : Nat) (h : j < rom.length), t.readByte (BitVec.ofNat 16 (0x200 + j)) = rom[j]) ∧
        ChangesOnly (fun p => ∃ j : Nat, j < rom.length ∧
          p = Part.byteAt (BitVec.ofNat 16 (0x200 + j))) s.componentReset t)

/-- R354, D34: the host's tick under `External`, waiting or not. -/
def Obligations.HostTickTicks : Prop :=
  ∀ s : State, s.config.timerCadence = .external →
    (s.initialized = false → hostTick s = .fault (.notInitialized .tick)) ∧
    (s.initialized = true → ∃ t, hostTick s = .next t ∧ t.DT.toNat = s.DT.toNat - 1 ∧ t.ST = 0 ∧
      t.events = (if 0 < s.ST.toNat then [.requestBeep s.ST] else []) ∧
      ChangesOnly (· ∈ [.DT, .ST, .events]) s t)

/-- R344, R303: the guard, the index check, both edges, the end of a wait, and a repeated level. -/
def Obligations.SetKeyEdges : Prop :=
  ∀ (k : Nat) (d : Bool) (s : State),
    (s.initialized = false → hostSetKey k d s = .fault (.notInitialized .setKey)) ∧
    (s.initialized = true → 15 < k → hostSetKey k d s = .fault (.invalidKeyIndex k)) ∧
    (s.initialized = true → ∀ h : k < 16, ∃ t, hostSetKey k d s = .next t ∧ t.key ⟨k, h⟩ = d ∧
      (s.key ⟨k, h⟩ = false → d = true → s.waiting = true →
        (t.reg s.waitReg).toNat = k ∧ t.waiting = false ∧ t.events = [.keyPressed ⟨k, h⟩] ∧
        ChangesOnly (· ∈ [.key ⟨k, h⟩, .events, .reg s.waitReg, .waiting]) s t) ∧
      (s.key ⟨k, h⟩ = false → d = true → s.waiting = false →
        t.events = [.keyPressed ⟨k, h⟩] ∧ ChangesOnly (· ∈ [.key ⟨k, h⟩, .events]) s t) ∧
      (s.key ⟨k, h⟩ = true → d = false →
        t.events = [.keyReleased ⟨k, h⟩] ∧ ChangesOnly (· ∈ [.key ⟨k, h⟩, .events]) s t) ∧
      (s.key ⟨k, h⟩ = d → t.events = [] ∧ ChangesOnly (· = .events) s t))

/-- R352: the operations the lifecycle guard stops, and the one it does not. -/
def Obligations.GuardBeforeInitialize : Prop :=
  ∀ (s : State) (rom : List Byte) (k : Nat) (d : Bool), s.initialized = false →
    step s = .fault (.notInitialized .step) ∧
    hostLoad rom s = .fault (.notInitialized .load) ∧
    (s.config.timerCadence = .external → hostTick s = .fault (.notInitialized .tick)) ∧
    hostSetKey k d s = .fault (.notInitialized .setKey) ∧
    (perform s .readFramebuffer).reply = .pixels (readFramebuffer s)

/-- R330: an operation that raises an error leaves the state as it was and emits no event. -/
def Obligations.ErrorsChangeNothing : Prop :=
  ∀ (s : State) (c : HostOp) (e : Fault), (perform s c).reply = .error e →
    (perform s c).state = s ∧ (perform s c).events = []

/-- R357: all pixels in row-major order, at any time, and nothing changes. -/
def Obligations.FramebufferReadRowMajor : Prop :=
  ∀ s : State, (readFramebuffer s).length = 2048 ∧
    (∀ (x : Fin 64) (y : Fin 32), (readFramebuffer s)[y.val * 64 + x.val]? = some (s.pixel x y)) ∧
    (perform s .readFramebuffer).state = s

/-- R137, R380: of all the host can call, only a press edge ends a wait, or an operation that resets
the whole block. -/
def Obligations.WaitEndsOnlyAtPressEdge : Prop :=
  ∀ (s : State) (c : HostOp), s.waiting = true → (perform s c).state.waiting = false →
    (∃ k : Key, c = .setKey k.val true ∧ s.key k = false) ∨ (∃ rom, c = .load rom) ∨ c = .init

/-- R31: nothing clears `initialized`; no operation changes a parameter. -/
def Obligations.InitializedIsNeverCleared : Prop :=
  ∀ (s : State) (calls : List HostOp), (performAll s calls).config = s.config ∧
    (s.initialized = true → (performAll s calls).initialized = true)

/-! ### Invariants -/

/-- The state after reset, and the power-on state, meet the invariant. -/
def Obligations.ResetMeetsInvariant : Prop := SafeState State.reset ∧ SafeState State.powerOn

/-- Every step keeps memory canonical and the stack pointer in its bounds (R28, R63). -/
def Obligations.StepKeepsInvariant : Prop := ∀ s t : State, SafeState s → step s = .next t → SafeState t

/-- So does every sequence of host operations. The bound of `SP` is R28's; the canonical form of
memory is the model's own (notes/assumptions/12.md). -/
def Obligations.HostOperationsKeepInvariant : Prop :=
  ∀ (calls : List HostOp) (s : State), SafeState s → SafeState (performAll s calls)

/-- The parts are all of the state: two states that meet the invariant and agree in every part are
the same state. A frame over all parts therefore leaves nothing out. -/
def Obligations.PartsDetermineState : Prop :=
  ∀ s t : State, SafeState s → SafeState t → ChangesOnly (fun _ => False) s t → t = s

/-- R386: with no ROM the block slides from 0x200 through no-ops, two bytes a step, to 0x1000, and
the next step meets the font's first two bytes; with the default font (notes/assumptions/5.md) it
raises `InvalidOpcode(0xF090, 0x1000)`. It holds under both cadences and both policies. -/
def Obligations.RunWithoutRom : Prop :=
  ∀ s : State, s.config.font = defaultFont →
    (∀ k : Nat, k ≤ 1792 → ∃ t : State,
      core.run k { s.componentReset with initialized := true } = .next t ∧
      t.pc.toNat = 0x200 + 2 * k) ∧
    core.run 1793 { s.componentReset with initialized := true } =
      .fault (.invalidOpcode 0xF090#16 0x1000#16 0xF#4)
end

