-- ==== Sys2Proof/Laws/Memory.lean ====
section
/-! SUPPORT. The laws of memory: a read after a write, that every write keeps the canonical form, and
that canonical memories with equal reads are equal data (spec/20_memory.md R63, R70). -/

namespace Sys2Proof.Machine

/-! ### Lookups -/

theorem Memory.lookup_insert (m : Memory) (a z : Nat) (b : Byte) :
    Memory.lookup (Memory.insert m a b) z = if z = a then some b else Memory.lookup m z := by
  induction m with
  | nil => rfl
  | cons c m ih =>
    obtain ⟨k, d⟩ := c
    simp only [Memory.insert]
    split
    · simp only [Memory.lookup]
    · split
      · next h => subst h; simp only [Memory.lookup]; split <;> rfl
      · next h =>
        simp only [Memory.lookup, ih]
        split
        · next h2 => subst h2; rw [if_neg (fun e => h e.symm)]
        · rfl

theorem Memory.lookup_erase (m : Memory) (a z : Nat) :
    Memory.lookup (Memory.erase m a) z = if z = a then none else Memory.lookup m z := by
  induction m with
  | nil => simp [Memory.erase, Memory.lookup]
  | cons c m ih =>
    obtain ⟨k, d⟩ := c
    simp only [Memory.erase] at ih
    simp only [Memory.erase, List.filter_cons, Memory.lookup]
    by_cases h : k = a
    · subst h
      simp only [ne_eq, not_true_eq_false, decide_false, Bool.false_eq_true, if_false, ih]
      split <;> rfl
    · simp only [ne_eq, h, not_false_eq_true, decide_true, if_true, Memory.lookup, ih]
      split
      · next h2 => subst h2; rw [if_neg h]
      · rfl

/-- A read after a write: the written cell gives the byte, every other cell what it gave (R70). -/
@[simp] theorem Memory.read_write (font : Font) (m : Memory) (a z : Nat) (b : Byte) :
    Memory.read font (Memory.write font m a b) z = if z = a then b else Memory.read font m z := by
  simp only [Memory.read, Memory.write]
  split
  · next hb =>
    rw [Memory.lookup_erase]
    split
    · next hz => subst hz; exact hb.symm
    · rfl
  · rw [Memory.lookup_insert]
    split <;> rfl

/-! ### The canonical form -/

theorem Memory.mem_insert {m : Memory} {a : Nat} {b : Byte} {c : Host.Cell}
    (h : c ∈ Memory.insert m a b) : c = (a, b) ∨ c ∈ m := by
  induction m with
  | nil => simpa [Memory.insert] using h
  | cons d m ih =>
    obtain ⟨k, v⟩ := d
    simp only [Memory.insert] at h
    split at h
    · simpa using h
    · split at h
      · simp only [List.mem_cons] at h ⊢; tauto
      · simp only [List.mem_cons] at h ⊢
        rcases h with h | h
        · exact .inr (.inl h)
        · rcases ih h with h | h <;> tauto

theorem Memory.rising_insert {m : Memory} {a : Nat} {b : Byte}
    (h : m.Pairwise (fun c d => c.1 < d.1)) :
    (Memory.insert m a b).Pairwise (fun c d => c.1 < d.1) := by
  induction m with
  | nil => simp [Memory.insert]
  | cons c m ih =>
    obtain ⟨k, v⟩ := c
    rw [List.pairwise_cons] at h
    simp only [Memory.insert]
    split
    · next hak =>
      refine List.pairwise_cons.2 ⟨?_, List.pairwise_cons.2 h⟩
      intro d hd
      rcases List.mem_cons.1 hd with rfl | hd
      · exact hak
      · exact lt_trans hak (h.1 d hd)
    · split
      · next hak =>
        subst hak
        exact List.pairwise_cons.2 h
      · refine List.pairwise_cons.2 ⟨?_, ih h.2⟩
        intro d hd
        rcases Memory.mem_insert hd with rfl | hd
        · show k < a
          omega
        · exact h.1 d hd

/-- Every write keeps the canonical form. -/
theorem Memory.wf_write {font : Font} {m : Memory} {a : Nat} {b : Byte} (h : Memory.wf font m)
    (ha : a < 4096) : Memory.wf font (Memory.write font m a b) := by
  simp only [Memory.write]
  split
  · exact ⟨h.1.filter _, fun c hc => h.2 c (List.mem_of_mem_filter hc)⟩
  · next hb =>
    refine ⟨Memory.rising_insert h.1, fun c hc => ?_⟩
    rcases Memory.mem_insert hc with rfl | hc
    · exact ⟨ha, hb⟩
    · exact h.2 c hc

@[simp] theorem Memory.wf_nil (font : Font) : Memory.wf font [] := by simp [Memory.wf]

theorem cellOf_lt (a : Word) : cellOf a < 4096 := Nat.mod_lt _ (by decide)

/-! ### Equal reads, equal memories -/

theorem Memory.lookup_eq_none_of_lt {m : Memory} {a : Nat} (h : ∀ c ∈ m, a < c.1) :
    Memory.lookup m a = none := by
  induction m with
  | nil => rfl
  | cons c m ih =>
    obtain ⟨k, v⟩ := c
    have hk : a < k := h (k, v) (by simp)
    simp only [Memory.lookup, if_neg (Nat.ne_of_lt hk)]
    exact ih (fun c hc => h c (by simp [hc]))

theorem Memory.lookup_of_mem {m : Memory} (h : m.Pairwise (fun c d => c.1 < d.1)) {c : Host.Cell}
    (hc : c ∈ m) : Memory.lookup m c.1 = some c.2 := by
  induction m with
  | nil => simp at hc
  | cons d m ih =>
    obtain ⟨k, v⟩ := d
    rw [List.pairwise_cons] at h
    rcases List.mem_cons.1 hc with rfl | hc
    · simp [Memory.lookup]
    · have : k < c.1 := h.1 c hc
      simp only [Memory.lookup, if_neg (Nat.ne_of_gt this)]
      exact ih h.2 hc

theorem Memory.mem_of_lookup {m : Memory} {a : Nat} {b : Byte} (h : Memory.lookup m a = some b) :
    (a, b) ∈ m := by
  induction m with
  | nil => simp [Memory.lookup] at h
  | cons d m ih =>
    obtain ⟨k, v⟩ := d
    simp only [Memory.lookup] at h
    split at h
    · next hk => subst hk; simp at h; simp [h]
    · simp [ih h]

/-- A cell is listed in a canonical memory exactly when it reads differently from the unlisted one. -/
theorem Memory.mem_iff_read {font : Font} {m : Memory} (h : Memory.wf font m) (a : Nat) (b : Byte) :
    (a, b) ∈ m ↔ Memory.read font m a = b ∧ b ≠ Memory.unlisted font a := by
  constructor
  · intro hm
    refine ⟨?_, (h.2 _ hm).2⟩
    simp only [Memory.read, Memory.lookup_of_mem h.1 hm, Option.getD_some]
  · rintro ⟨hr, hb⟩
    simp only [Memory.read] at hr
    cases hl : Memory.lookup m a with
    | none => rw [hl] at hr; exact absurd hr.symm hb
    | some c => rw [hl] at hr; simp at hr; exact hr ▸ Memory.mem_of_lookup hl

/-- Canonical memories that read alike are the same list. -/
theorem Memory.ext_read {font : Font} {m n : Memory} (hm : Memory.wf font m) (hn : Memory.wf font n)
    (h : ∀ a, a < 4096 → Memory.read font m a = Memory.read font n a) : m = n := by
  have hmem : ∀ c : Host.Cell, c ∈ m ↔ c ∈ n := by
    rintro ⟨a, b⟩
    by_cases ha : a < 4096
    · rw [Memory.mem_iff_read hm, Memory.mem_iff_read hn, h a ha]
    · exact ⟨fun hc => absurd (hm.2 _ hc).1 ha, fun hc => absurd (hn.2 _ hc).1 ha⟩
  have hirr : ∀ {l : Memory}, l.Pairwise (fun c d => c.1 < d.1) → l.Nodup := fun hl =>
    hl.imp (fun hlt heq => absurd (congrArg Prod.fst heq) (Nat.ne_of_lt hlt))
  have hp : m.Perm n := (List.perm_ext_iff_of_nodup (hirr hm.1) (hirr hn.1)).2 hmem
  exact hp.eq_of_pairwise (fun _ _ _ _ h1 h2 => absurd h1 (Nat.lt_asymm h2)) hm.1 hn.1

/-! ### Reads and writes of the state -/

/-- A read after a write of the state; two addresses name one cell when they agree modulo 4096. -/
@[simp] theorem State.readByte_writeByte (s : State) (a z : Word) (b : Byte) :
    (s.writeByte a b).readByte z = if cellOf z = cellOf a then b else s.readByte z := by
  simp [State.readByte, State.writeByte]

end Sys2Proof.Machine
end

