-- ==== Sys2Proof/Laws/State.lean ====
section
/-! SUPPORT. What every update of the state leaves in every field: one lemma per field per update,
true by rfl, and the same for the accessors a statement reads through. -/

namespace Sys2Proof.Machine

/-! `setReg` -/

@[simp] theorem State.setReg_V (s : State) (r : Reg) (b : Byte) : (s.setReg r b).V = s.V.set r b := rfl
@[simp] theorem State.setReg_I (s : State) (r : Reg) (b : Byte) : (s.setReg r b).I = s.I := rfl
@[simp] theorem State.setReg_pc (s : State) (r : Reg) (b : Byte) : (s.setReg r b).pc = s.pc := rfl
@[simp] theorem State.setReg_SP (s : State) (r : Reg) (b : Byte) : (s.setReg r b).SP = s.SP := rfl
@[simp] theorem State.setReg_S (s : State) (r : Reg) (b : Byte) : (s.setReg r b).S = s.S := rfl
@[simp] theorem State.setReg_DT (s : State) (r : Reg) (b : Byte) : (s.setReg r b).DT = s.DT := rfl
@[simp] theorem State.setReg_ST (s : State) (r : Reg) (b : Byte) : (s.setReg r b).ST = s.ST := rfl
@[simp] theorem State.setReg_M (s : State) (r : Reg) (b : Byte) : (s.setReg r b).M = s.M := rfl
@[simp] theorem State.setReg_FB (s : State) (r : Reg) (b : Byte) : (s.setReg r b).FB = s.FB := rfl
@[simp] theorem State.setReg_K (s : State) (r : Reg) (b : Byte) : (s.setReg r b).K = s.K := rfl
@[simp] theorem State.setReg_waiting (s : State) (r : Reg) (b : Byte) : (s.setReg r b).waiting = s.waiting := rfl
@[simp] theorem State.setReg_waitReg (s : State) (r : Reg) (b : Byte) : (s.setReg r b).waitReg = s.waitReg := rfl
@[simp] theorem State.setReg_initialized (s : State) (r : Reg) (b : Byte) : (s.setReg r b).initialized = s.initialized := rfl
@[simp] theorem State.setReg_events (s : State) (r : Reg) (b : Byte) : (s.setReg r b).events = s.events := rfl
@[simp] theorem State.setReg_draws (s : State) (r : Reg) (b : Byte) : (s.setReg r b).draws = s.draws := rfl
@[simp] theorem State.setReg_config (s : State) (r : Reg) (b : Byte) : (s.setReg r b).config = s.config := rfl
@[simp] theorem State.readByte_setReg (s : State) (r : Reg) (b : Byte) (z : Word) : (s.setReg r b).readByte z = s.readByte z := rfl
@[simp] theorem State.pixel_setReg (s : State) (r : Reg) (b : Byte) (x' : Fin 64) (y' : Fin 32) : (s.setReg r b).pixel x' y' = s.pixel x' y' := rfl
@[simp] theorem State.key_setReg (s : State) (r : Reg) (b : Byte) (k' : Key) : (s.setReg r b).key k' = s.key k' := rfl
@[simp] theorem State.draw_setReg (s : State) (r : Reg) (b : Byte) : (s.setReg r b).draw = s.draw := rfl

/-! `setI` -/

@[simp] theorem State.setI_V (s : State) (w : Word) : (s.setI w).V = s.V := rfl
@[simp] theorem State.setI_I (s : State) (w : Word) : (s.setI w).I = w := rfl
@[simp] theorem State.setI_pc (s : State) (w : Word) : (s.setI w).pc = s.pc := rfl
@[simp] theorem State.setI_SP (s : State) (w : Word) : (s.setI w).SP = s.SP := rfl
@[simp] theorem State.setI_S (s : State) (w : Word) : (s.setI w).S = s.S := rfl
@[simp] theorem State.setI_DT (s : State) (w : Word) : (s.setI w).DT = s.DT := rfl
@[simp] theorem State.setI_ST (s : State) (w : Word) : (s.setI w).ST = s.ST := rfl
@[simp] theorem State.setI_M (s : State) (w : Word) : (s.setI w).M = s.M := rfl
@[simp] theorem State.setI_FB (s : State) (w : Word) : (s.setI w).FB = s.FB := rfl
@[simp] theorem State.setI_K (s : State) (w : Word) : (s.setI w).K = s.K := rfl
@[simp] theorem State.setI_waiting (s : State) (w : Word) : (s.setI w).waiting = s.waiting := rfl
@[simp] theorem State.setI_waitReg (s : State) (w : Word) : (s.setI w).waitReg = s.waitReg := rfl
@[simp] theorem State.setI_initialized (s : State) (w : Word) : (s.setI w).initialized = s.initialized := rfl
@[simp] theorem State.setI_events (s : State) (w : Word) : (s.setI w).events = s.events := rfl
@[simp] theorem State.setI_draws (s : State) (w : Word) : (s.setI w).draws = s.draws := rfl
@[simp] theorem State.setI_config (s : State) (w : Word) : (s.setI w).config = s.config := rfl
@[simp] theorem State.reg_setI (s : State) (w : Word) (q : Reg) : (s.setI w).reg q = s.reg q := rfl
@[simp] theorem State.readByte_setI (s : State) (w : Word) (z : Word) : (s.setI w).readByte z = s.readByte z := rfl
@[simp] theorem State.pixel_setI (s : State) (w : Word) (x' : Fin 64) (y' : Fin 32) : (s.setI w).pixel x' y' = s.pixel x' y' := rfl
@[simp] theorem State.key_setI (s : State) (w : Word) (k' : Key) : (s.setI w).key k' = s.key k' := rfl
@[simp] theorem State.draw_setI (s : State) (w : Word) : (s.setI w).draw = s.draw := rfl

/-! `setPc` -/

@[simp] theorem State.setPc_V (s : State) (w : Word) : (s.setPc w).V = s.V := rfl
@[simp] theorem State.setPc_I (s : State) (w : Word) : (s.setPc w).I = s.I := rfl
@[simp] theorem State.setPc_pc (s : State) (w : Word) : (s.setPc w).pc = w := rfl
@[simp] theorem State.setPc_SP (s : State) (w : Word) : (s.setPc w).SP = s.SP := rfl
@[simp] theorem State.setPc_S (s : State) (w : Word) : (s.setPc w).S = s.S := rfl
@[simp] theorem State.setPc_DT (s : State) (w : Word) : (s.setPc w).DT = s.DT := rfl
@[simp] theorem State.setPc_ST (s : State) (w : Word) : (s.setPc w).ST = s.ST := rfl
@[simp] theorem State.setPc_M (s : State) (w : Word) : (s.setPc w).M = s.M := rfl
@[simp] theorem State.setPc_FB (s : State) (w : Word) : (s.setPc w).FB = s.FB := rfl
@[simp] theorem State.setPc_K (s : State) (w : Word) : (s.setPc w).K = s.K := rfl
@[simp] theorem State.setPc_waiting (s : State) (w : Word) : (s.setPc w).waiting = s.waiting := rfl
@[simp] theorem State.setPc_waitReg (s : State) (w : Word) : (s.setPc w).waitReg = s.waitReg := rfl
@[simp] theorem State.setPc_initialized (s : State) (w : Word) : (s.setPc w).initialized = s.initialized := rfl
@[simp] theorem State.setPc_events (s : State) (w : Word) : (s.setPc w).events = s.events := rfl
@[simp] theorem State.setPc_draws (s : State) (w : Word) : (s.setPc w).draws = s.draws := rfl
@[simp] theorem State.setPc_config (s : State) (w : Word) : (s.setPc w).config = s.config := rfl
@[simp] theorem State.reg_setPc (s : State) (w : Word) (q : Reg) : (s.setPc w).reg q = s.reg q := rfl
@[simp] theorem State.readByte_setPc (s : State) (w : Word) (z : Word) : (s.setPc w).readByte z = s.readByte z := rfl
@[simp] theorem State.pixel_setPc (s : State) (w : Word) (x' : Fin 64) (y' : Fin 32) : (s.setPc w).pixel x' y' = s.pixel x' y' := rfl
@[simp] theorem State.key_setPc (s : State) (w : Word) (k' : Key) : (s.setPc w).key k' = s.key k' := rfl
@[simp] theorem State.draw_setPc (s : State) (w : Word) : (s.setPc w).draw = s.draw := rfl

/-! `writeByte` -/

@[simp] theorem State.writeByte_V (s : State) (a : Word) (b : Byte) : (s.writeByte a b).V = s.V := rfl
@[simp] theorem State.writeByte_I (s : State) (a : Word) (b : Byte) : (s.writeByte a b).I = s.I := rfl
@[simp] theorem State.writeByte_pc (s : State) (a : Word) (b : Byte) : (s.writeByte a b).pc = s.pc := rfl
@[simp] theorem State.writeByte_SP (s : State) (a : Word) (b : Byte) : (s.writeByte a b).SP = s.SP := rfl
@[simp] theorem State.writeByte_S (s : State) (a : Word) (b : Byte) : (s.writeByte a b).S = s.S := rfl
@[simp] theorem State.writeByte_DT (s : State) (a : Word) (b : Byte) : (s.writeByte a b).DT = s.DT := rfl
@[simp] theorem State.writeByte_ST (s : State) (a : Word) (b : Byte) : (s.writeByte a b).ST = s.ST := rfl
@[simp] theorem State.writeByte_M (s : State) (a : Word) (b : Byte) : (s.writeByte a b).M = Memory.write s.config.font s.M (cellOf a) b := rfl
@[simp] theorem State.writeByte_FB (s : State) (a : Word) (b : Byte) : (s.writeByte a b).FB = s.FB := rfl
@[simp] theorem State.writeByte_K (s : State) (a : Word) (b : Byte) : (s.writeByte a b).K = s.K := rfl
@[simp] theorem State.writeByte_waiting (s : State) (a : Word) (b : Byte) : (s.writeByte a b).waiting = s.waiting := rfl
@[simp] theorem State.writeByte_waitReg (s : State) (a : Word) (b : Byte) : (s.writeByte a b).waitReg = s.waitReg := rfl
@[simp] theorem State.writeByte_initialized (s : State) (a : Word) (b : Byte) : (s.writeByte a b).initialized = s.initialized := rfl
@[simp] theorem State.writeByte_events (s : State) (a : Word) (b : Byte) : (s.writeByte a b).events = s.events := rfl
@[simp] theorem State.writeByte_draws (s : State) (a : Word) (b : Byte) : (s.writeByte a b).draws = s.draws := rfl
@[simp] theorem State.writeByte_config (s : State) (a : Word) (b : Byte) : (s.writeByte a b).config = s.config := rfl
@[simp] theorem State.reg_writeByte (s : State) (a : Word) (b : Byte) (q : Reg) : (s.writeByte a b).reg q = s.reg q := rfl
@[simp] theorem State.pixel_writeByte (s : State) (a : Word) (b : Byte) (x' : Fin 64) (y' : Fin 32) : (s.writeByte a b).pixel x' y' = s.pixel x' y' := rfl
@[simp] theorem State.key_writeByte (s : State) (a : Word) (b : Byte) (k' : Key) : (s.writeByte a b).key k' = s.key k' := rfl
@[simp] theorem State.draw_writeByte (s : State) (a : Word) (b : Byte) : (s.writeByte a b).draw = s.draw := rfl

/-! `push` -/

@[simp] theorem State.push_V (s : State) (w : Word) : (s.push w).V = s.V := rfl
@[simp] theorem State.push_I (s : State) (w : Word) : (s.push w).I = s.I := rfl
@[simp] theorem State.push_pc (s : State) (w : Word) : (s.push w).pc = s.pc := rfl
@[simp] theorem State.push_SP (s : State) (w : Word) : (s.push w).SP = s.SP + 1 := rfl
@[simp] theorem State.push_S (s : State) (w : Word) : (s.push w).S = s.S.set (stackIndex s.SP) w := rfl
@[simp] theorem State.push_DT (s : State) (w : Word) : (s.push w).DT = s.DT := rfl
@[simp] theorem State.push_ST (s : State) (w : Word) : (s.push w).ST = s.ST := rfl
@[simp] theorem State.push_M (s : State) (w : Word) : (s.push w).M = s.M := rfl
@[simp] theorem State.push_FB (s : State) (w : Word) : (s.push w).FB = s.FB := rfl
@[simp] theorem State.push_K (s : State) (w : Word) : (s.push w).K = s.K := rfl
@[simp] theorem State.push_waiting (s : State) (w : Word) : (s.push w).waiting = s.waiting := rfl
@[simp] theorem State.push_waitReg (s : State) (w : Word) : (s.push w).waitReg = s.waitReg := rfl
@[simp] theorem State.push_initialized (s : State) (w : Word) : (s.push w).initialized = s.initialized := rfl
@[simp] theorem State.push_events (s : State) (w : Word) : (s.push w).events = s.events := rfl
@[simp] theorem State.push_draws (s : State) (w : Word) : (s.push w).draws = s.draws := rfl
@[simp] theorem State.push_config (s : State) (w : Word) : (s.push w).config = s.config := rfl
@[simp] theorem State.reg_push (s : State) (w : Word) (q : Reg) : (s.push w).reg q = s.reg q := rfl
@[simp] theorem State.readByte_push (s : State) (w : Word) (z : Word) : (s.push w).readByte z = s.readByte z := rfl
@[simp] theorem State.pixel_push (s : State) (w : Word) (x' : Fin 64) (y' : Fin 32) : (s.push w).pixel x' y' = s.pixel x' y' := rfl
@[simp] theorem State.key_push (s : State) (w : Word) (k' : Key) : (s.push w).key k' = s.key k' := rfl
@[simp] theorem State.draw_push (s : State) (w : Word) : (s.push w).draw = s.draw := rfl

/-! `popPc` -/

@[simp] theorem State.popPc_V (s : State) : (s.popPc).V = s.V := rfl
@[simp] theorem State.popPc_I (s : State) : (s.popPc).I = s.I := rfl
@[simp] theorem State.popPc_pc (s : State) : (s.popPc).pc = s.S[stackIndex (s.SP - 1)] := rfl
@[simp] theorem State.popPc_SP (s : State) : (s.popPc).SP = s.SP - 1 := rfl
@[simp] theorem State.popPc_S (s : State) : (s.popPc).S = s.S := rfl
@[simp] theorem State.popPc_DT (s : State) : (s.popPc).DT = s.DT := rfl
@[simp] theorem State.popPc_ST (s : State) : (s.popPc).ST = s.ST := rfl
@[simp] theorem State.popPc_M (s : State) : (s.popPc).M = s.M := rfl
@[simp] theorem State.popPc_FB (s : State) : (s.popPc).FB = s.FB := rfl
@[simp] theorem State.popPc_K (s : State) : (s.popPc).K = s.K := rfl
@[simp] theorem State.popPc_waiting (s : State) : (s.popPc).waiting = s.waiting := rfl
@[simp] theorem State.popPc_waitReg (s : State) : (s.popPc).waitReg = s.waitReg := rfl
@[simp] theorem State.popPc_initialized (s : State) : (s.popPc).initialized = s.initialized := rfl
@[simp] theorem State.popPc_events (s : State) : (s.popPc).events = s.events := rfl
@[simp] theorem State.popPc_draws (s : State) : (s.popPc).draws = s.draws := rfl
@[simp] theorem State.popPc_config (s : State) : (s.popPc).config = s.config := rfl
@[simp] theorem State.reg_popPc (s : State) (q : Reg) : (s.popPc).reg q = s.reg q := rfl
@[simp] theorem State.readByte_popPc (s : State) (z : Word) : (s.popPc).readByte z = s.readByte z := rfl
@[simp] theorem State.pixel_popPc (s : State) (x' : Fin 64) (y' : Fin 32) : (s.popPc).pixel x' y' = s.pixel x' y' := rfl
@[simp] theorem State.key_popPc (s : State) (k' : Key) : (s.popPc).key k' = s.key k' := rfl
@[simp] theorem State.draw_popPc (s : State) : (s.popPc).draw = s.draw := rfl

/-! `setKeyLevel` -/

@[simp] theorem State.setKeyLevel_V (s : State) (k : Key) (d : Bool) : (s.setKeyLevel k d).V = s.V := rfl
@[simp] theorem State.setKeyLevel_I (s : State) (k : Key) (d : Bool) : (s.setKeyLevel k d).I = s.I := rfl
@[simp] theorem State.setKeyLevel_pc (s : State) (k : Key) (d : Bool) : (s.setKeyLevel k d).pc = s.pc := rfl
@[simp] theorem State.setKeyLevel_SP (s : State) (k : Key) (d : Bool) : (s.setKeyLevel k d).SP = s.SP := rfl
@[simp] theorem State.setKeyLevel_S (s : State) (k : Key) (d : Bool) : (s.setKeyLevel k d).S = s.S := rfl
@[simp] theorem State.setKeyLevel_DT (s : State) (k : Key) (d : Bool) : (s.setKeyLevel k d).DT = s.DT := rfl
@[simp] theorem State.setKeyLevel_ST (s : State) (k : Key) (d : Bool) : (s.setKeyLevel k d).ST = s.ST := rfl
@[simp] theorem State.setKeyLevel_M (s : State) (k : Key) (d : Bool) : (s.setKeyLevel k d).M = s.M := rfl
@[simp] theorem State.setKeyLevel_FB (s : State) (k : Key) (d : Bool) : (s.setKeyLevel k d).FB = s.FB := rfl
@[simp] theorem State.setKeyLevel_K (s : State) (k : Key) (d : Bool) : (s.setKeyLevel k d).K = s.K.set k d := rfl
@[simp] theorem State.setKeyLevel_waiting (s : State) (k : Key) (d : Bool) : (s.setKeyLevel k d).waiting = s.waiting := rfl
@[simp] theorem State.setKeyLevel_waitReg (s : State) (k : Key) (d : Bool) : (s.setKeyLevel k d).waitReg = s.waitReg := rfl
@[simp] theorem State.setKeyLevel_initialized (s : State) (k : Key) (d : Bool) : (s.setKeyLevel k d).initialized = s.initialized := rfl
@[simp] theorem State.setKeyLevel_events (s : State) (k : Key) (d : Bool) : (s.setKeyLevel k d).events = s.events := rfl
@[simp] theorem State.setKeyLevel_draws (s : State) (k : Key) (d : Bool) : (s.setKeyLevel k d).draws = s.draws := rfl
@[simp] theorem State.setKeyLevel_config (s : State) (k : Key) (d : Bool) : (s.setKeyLevel k d).config = s.config := rfl
@[simp] theorem State.reg_setKeyLevel (s : State) (k : Key) (d : Bool) (q : Reg) : (s.setKeyLevel k d).reg q = s.reg q := rfl
@[simp] theorem State.readByte_setKeyLevel (s : State) (k : Key) (d : Bool) (z : Word) : (s.setKeyLevel k d).readByte z = s.readByte z := rfl
@[simp] theorem State.pixel_setKeyLevel (s : State) (k : Key) (d : Bool) (x' : Fin 64) (y' : Fin 32) : (s.setKeyLevel k d).pixel x' y' = s.pixel x' y' := rfl
@[simp] theorem State.draw_setKeyLevel (s : State) (k : Key) (d : Bool) : (s.setKeyLevel k d).draw = s.draw := rfl

/-! `setFB` -/

@[simp] theorem State.setFB_V (s : State) (fb : Framebuffer) : (s.setFB fb).V = s.V := rfl
@[simp] theorem State.setFB_I (s : State) (fb : Framebuffer) : (s.setFB fb).I = s.I := rfl
@[simp] theorem State.setFB_pc (s : State) (fb : Framebuffer) : (s.setFB fb).pc = s.pc := rfl
@[simp] theorem State.setFB_SP (s : State) (fb : Framebuffer) : (s.setFB fb).SP = s.SP := rfl
@[simp] theorem State.setFB_S (s : State) (fb : Framebuffer) : (s.setFB fb).S = s.S := rfl
@[simp] theorem State.setFB_DT (s : State) (fb : Framebuffer) : (s.setFB fb).DT = s.DT := rfl
@[simp] theorem State.setFB_ST (s : State) (fb : Framebuffer) : (s.setFB fb).ST = s.ST := rfl
@[simp] theorem State.setFB_M (s : State) (fb : Framebuffer) : (s.setFB fb).M = s.M := rfl
@[simp] theorem State.setFB_FB (s : State) (fb : Framebuffer) : (s.setFB fb).FB = fb := rfl
@[simp] theorem State.setFB_K (s : State) (fb : Framebuffer) : (s.setFB fb).K = s.K := rfl
@[simp] theorem State.setFB_waiting (s : State) (fb : Framebuffer) : (s.setFB fb).waiting = s.waiting := rfl
@[simp] theorem State.setFB_waitReg (s : State) (fb : Framebuffer) : (s.setFB fb).waitReg = s.waitReg := rfl
@[simp] theorem State.setFB_initialized (s : State) (fb : Framebuffer) : (s.setFB fb).initialized = s.initialized := rfl
@[simp] theorem State.setFB_events (s : State) (fb : Framebuffer) : (s.setFB fb).events = s.events := rfl
@[simp] theorem State.setFB_draws (s : State) (fb : Framebuffer) : (s.setFB fb).draws = s.draws := rfl
@[simp] theorem State.setFB_config (s : State) (fb : Framebuffer) : (s.setFB fb).config = s.config := rfl
@[simp] theorem State.reg_setFB (s : State) (fb : Framebuffer) (q : Reg) : (s.setFB fb).reg q = s.reg q := rfl
@[simp] theorem State.readByte_setFB (s : State) (fb : Framebuffer) (z : Word) : (s.setFB fb).readByte z = s.readByte z := rfl
@[simp] theorem State.key_setFB (s : State) (fb : Framebuffer) (k' : Key) : (s.setFB fb).key k' = s.key k' := rfl
@[simp] theorem State.draw_setFB (s : State) (fb : Framebuffer) : (s.setFB fb).draw = s.draw := rfl

/-! `setDT` -/

@[simp] theorem State.setDT_V (s : State) (b : Byte) : (s.setDT b).V = s.V := rfl
@[simp] theorem State.setDT_I (s : State) (b : Byte) : (s.setDT b).I = s.I := rfl
@[simp] theorem State.setDT_pc (s : State) (b : Byte) : (s.setDT b).pc = s.pc := rfl
@[simp] theorem State.setDT_SP (s : State) (b : Byte) : (s.setDT b).SP = s.SP := rfl
@[simp] theorem State.setDT_S (s : State) (b : Byte) : (s.setDT b).S = s.S := rfl
@[simp] theorem State.setDT_DT (s : State) (b : Byte) : (s.setDT b).DT = b := rfl
@[simp] theorem State.setDT_ST (s : State) (b : Byte) : (s.setDT b).ST = s.ST := rfl
@[simp] theorem State.setDT_M (s : State) (b : Byte) : (s.setDT b).M = s.M := rfl
@[simp] theorem State.setDT_FB (s : State) (b : Byte) : (s.setDT b).FB = s.FB := rfl
@[simp] theorem State.setDT_K (s : State) (b : Byte) : (s.setDT b).K = s.K := rfl
@[simp] theorem State.setDT_waiting (s : State) (b : Byte) : (s.setDT b).waiting = s.waiting := rfl
@[simp] theorem State.setDT_waitReg (s : State) (b : Byte) : (s.setDT b).waitReg = s.waitReg := rfl
@[simp] theorem State.setDT_initialized (s : State) (b : Byte) : (s.setDT b).initialized = s.initialized := rfl
@[simp] theorem State.setDT_events (s : State) (b : Byte) : (s.setDT b).events = s.events := rfl
@[simp] theorem State.setDT_draws (s : State) (b : Byte) : (s.setDT b).draws = s.draws := rfl
@[simp] theorem State.setDT_config (s : State) (b : Byte) : (s.setDT b).config = s.config := rfl
@[simp] theorem State.reg_setDT (s : State) (b : Byte) (q : Reg) : (s.setDT b).reg q = s.reg q := rfl
@[simp] theorem State.readByte_setDT (s : State) (b : Byte) (z : Word) : (s.setDT b).readByte z = s.readByte z := rfl
@[simp] theorem State.pixel_setDT (s : State) (b : Byte) (x' : Fin 64) (y' : Fin 32) : (s.setDT b).pixel x' y' = s.pixel x' y' := rfl
@[simp] theorem State.key_setDT (s : State) (b : Byte) (k' : Key) : (s.setDT b).key k' = s.key k' := rfl
@[simp] theorem State.draw_setDT (s : State) (b : Byte) : (s.setDT b).draw = s.draw := rfl

/-! `setST` -/

@[simp] theorem State.setST_V (s : State) (b : Byte) : (s.setST b).V = s.V := rfl
@[simp] theorem State.setST_I (s : State) (b : Byte) : (s.setST b).I = s.I := rfl
@[simp] theorem State.setST_pc (s : State) (b : Byte) : (s.setST b).pc = s.pc := rfl
@[simp] theorem State.setST_SP (s : State) (b : Byte) : (s.setST b).SP = s.SP := rfl
@[simp] theorem State.setST_S (s : State) (b : Byte) : (s.setST b).S = s.S := rfl
@[simp] theorem State.setST_DT (s : State) (b : Byte) : (s.setST b).DT = s.DT := rfl
@[simp] theorem State.setST_ST (s : State) (b : Byte) : (s.setST b).ST = b := rfl
@[simp] theorem State.setST_M (s : State) (b : Byte) : (s.setST b).M = s.M := rfl
@[simp] theorem State.setST_FB (s : State) (b : Byte) : (s.setST b).FB = s.FB := rfl
@[simp] theorem State.setST_K (s : State) (b : Byte) : (s.setST b).K = s.K := rfl
@[simp] theorem State.setST_waiting (s : State) (b : Byte) : (s.setST b).waiting = s.waiting := rfl
@[simp] theorem State.setST_waitReg (s : State) (b : Byte) : (s.setST b).waitReg = s.waitReg := rfl
@[simp] theorem State.setST_initialized (s : State) (b : Byte) : (s.setST b).initialized = s.initialized := rfl
@[simp] theorem State.setST_events (s : State) (b : Byte) : (s.setST b).events = s.events := rfl
@[simp] theorem State.setST_draws (s : State) (b : Byte) : (s.setST b).draws = s.draws := rfl
@[simp] theorem State.setST_config (s : State) (b : Byte) : (s.setST b).config = s.config := rfl
@[simp] theorem State.reg_setST (s : State) (b : Byte) (q : Reg) : (s.setST b).reg q = s.reg q := rfl
@[simp] theorem State.readByte_setST (s : State) (b : Byte) (z : Word) : (s.setST b).readByte z = s.readByte z := rfl
@[simp] theorem State.pixel_setST (s : State) (b : Byte) (x' : Fin 64) (y' : Fin 32) : (s.setST b).pixel x' y' = s.pixel x' y' := rfl
@[simp] theorem State.key_setST (s : State) (b : Byte) (k' : Key) : (s.setST b).key k' = s.key k' := rfl
@[simp] theorem State.draw_setST (s : State) (b : Byte) : (s.setST b).draw = s.draw := rfl

/-! `beginWait` -/

@[simp] theorem State.beginWait_V (s : State) (x : Reg) : (s.beginWait x).V = s.V := rfl
@[simp] theorem State.beginWait_I (s : State) (x : Reg) : (s.beginWait x).I = s.I := rfl
@[simp] theorem State.beginWait_pc (s : State) (x : Reg) : (s.beginWait x).pc = s.pc := rfl
@[simp] theorem State.beginWait_SP (s : State) (x : Reg) : (s.beginWait x).SP = s.SP := rfl
@[simp] theorem State.beginWait_S (s : State) (x : Reg) : (s.beginWait x).S = s.S := rfl
@[simp] theorem State.beginWait_DT (s : State) (x : Reg) : (s.beginWait x).DT = s.DT := rfl
@[simp] theorem State.beginWait_ST (s : State) (x : Reg) : (s.beginWait x).ST = s.ST := rfl
@[simp] theorem State.beginWait_M (s : State) (x : Reg) : (s.beginWait x).M = s.M := rfl
@[simp] theorem State.beginWait_FB (s : State) (x : Reg) : (s.beginWait x).FB = s.FB := rfl
@[simp] theorem State.beginWait_K (s : State) (x : Reg) : (s.beginWait x).K = s.K := rfl
@[simp] theorem State.beginWait_waiting (s : State) (x : Reg) : (s.beginWait x).waiting = true := rfl
@[simp] theorem State.beginWait_waitReg (s : State) (x : Reg) : (s.beginWait x).waitReg = x := rfl
@[simp] theorem State.beginWait_initialized (s : State) (x : Reg) : (s.beginWait x).initialized = s.initialized := rfl
@[simp] theorem State.beginWait_events (s : State) (x : Reg) : (s.beginWait x).events = s.events := rfl
@[simp] theorem State.beginWait_draws (s : State) (x : Reg) : (s.beginWait x).draws = s.draws := rfl
@[simp] theorem State.beginWait_config (s : State) (x : Reg) : (s.beginWait x).config = s.config := rfl
@[simp] theorem State.reg_beginWait (s : State) (x : Reg) (q : Reg) : (s.beginWait x).reg q = s.reg q := rfl
@[simp] theorem State.readByte_beginWait (s : State) (x : Reg) (z : Word) : (s.beginWait x).readByte z = s.readByte z := rfl
@[simp] theorem State.pixel_beginWait (s : State) (x : Reg) (x' : Fin 64) (y' : Fin 32) : (s.beginWait x).pixel x' y' = s.pixel x' y' := rfl
@[simp] theorem State.key_beginWait (s : State) (x : Reg) (k' : Key) : (s.beginWait x).key k' = s.key k' := rfl
@[simp] theorem State.draw_beginWait (s : State) (x : Reg) : (s.beginWait x).draw = s.draw := rfl

/-! `endWait` -/

@[simp] theorem State.endWait_V (s : State) (k : Key) : (s.endWait k).V = s.V.set s.waitReg (BitVec.ofNat 8 k.val) := rfl
@[simp] theorem State.endWait_I (s : State) (k : Key) : (s.endWait k).I = s.I := rfl
@[simp] theorem State.endWait_pc (s : State) (k : Key) : (s.endWait k).pc = s.pc := rfl
@[simp] theorem State.endWait_SP (s : State) (k : Key) : (s.endWait k).SP = s.SP := rfl
@[simp] theorem State.endWait_S (s : State) (k : Key) : (s.endWait k).S = s.S := rfl
@[simp] theorem State.endWait_DT (s : State) (k : Key) : (s.endWait k).DT = s.DT := rfl
@[simp] theorem State.endWait_ST (s : State) (k : Key) : (s.endWait k).ST = s.ST := rfl
@[simp] theorem State.endWait_M (s : State) (k : Key) : (s.endWait k).M = s.M := rfl
@[simp] theorem State.endWait_FB (s : State) (k : Key) : (s.endWait k).FB = s.FB := rfl
@[simp] theorem State.endWait_K (s : State) (k : Key) : (s.endWait k).K = s.K := rfl
@[simp] theorem State.endWait_waiting (s : State) (k : Key) : (s.endWait k).waiting = false := rfl
@[simp] theorem State.endWait_waitReg (s : State) (k : Key) : (s.endWait k).waitReg = s.waitReg := rfl
@[simp] theorem State.endWait_initialized (s : State) (k : Key) : (s.endWait k).initialized = s.initialized := rfl
@[simp] theorem State.endWait_events (s : State) (k : Key) : (s.endWait k).events = s.events := rfl
@[simp] theorem State.endWait_draws (s : State) (k : Key) : (s.endWait k).draws = s.draws := rfl
@[simp] theorem State.endWait_config (s : State) (k : Key) : (s.endWait k).config = s.config := rfl
@[simp] theorem State.readByte_endWait (s : State) (k : Key) (z : Word) : (s.endWait k).readByte z = s.readByte z := rfl
@[simp] theorem State.pixel_endWait (s : State) (k : Key) (x' : Fin 64) (y' : Fin 32) : (s.endWait k).pixel x' y' = s.pixel x' y' := rfl
@[simp] theorem State.key_endWait (s : State) (k : Key) (k' : Key) : (s.endWait k).key k' = s.key k' := rfl
@[simp] theorem State.draw_endWait (s : State) (k : Key) : (s.endWait k).draw = s.draw := rfl

/-! `countDraw` -/

@[simp] theorem State.countDraw_V (s : State) : (s.countDraw).V = s.V := rfl
@[simp] theorem State.countDraw_I (s : State) : (s.countDraw).I = s.I := rfl
@[simp] theorem State.countDraw_pc (s : State) : (s.countDraw).pc = s.pc := rfl
@[simp] theorem State.countDraw_SP (s : State) : (s.countDraw).SP = s.SP := rfl
@[simp] theorem State.countDraw_S (s : State) : (s.countDraw).S = s.S := rfl
@[simp] theorem State.countDraw_DT (s : State) : (s.countDraw).DT = s.DT := rfl
@[simp] theorem State.countDraw_ST (s : State) : (s.countDraw).ST = s.ST := rfl
@[simp] theorem State.countDraw_M (s : State) : (s.countDraw).M = s.M := rfl
@[simp] theorem State.countDraw_FB (s : State) : (s.countDraw).FB = s.FB := rfl
@[simp] theorem State.countDraw_K (s : State) : (s.countDraw).K = s.K := rfl
@[simp] theorem State.countDraw_waiting (s : State) : (s.countDraw).waiting = s.waiting := rfl
@[simp] theorem State.countDraw_waitReg (s : State) : (s.countDraw).waitReg = s.waitReg := rfl
@[simp] theorem State.countDraw_initialized (s : State) : (s.countDraw).initialized = s.initialized := rfl
@[simp] theorem State.countDraw_events (s : State) : (s.countDraw).events = s.events := rfl
@[simp] theorem State.countDraw_draws (s : State) : (s.countDraw).draws = s.draws + 1 := rfl
@[simp] theorem State.countDraw_config (s : State) : (s.countDraw).config = s.config := rfl
@[simp] theorem State.reg_countDraw (s : State) (q : Reg) : (s.countDraw).reg q = s.reg q := rfl
@[simp] theorem State.readByte_countDraw (s : State) (z : Word) : (s.countDraw).readByte z = s.readByte z := rfl
@[simp] theorem State.pixel_countDraw (s : State) (x' : Fin 64) (y' : Fin 32) : (s.countDraw).pixel x' y' = s.pixel x' y' := rfl
@[simp] theorem State.key_countDraw (s : State) (k' : Key) : (s.countDraw).key k' = s.key k' := rfl

/-! `emit` -/

@[simp] theorem State.emit_V (s : State) (e : Event) : (s.emit e).V = s.V := rfl
@[simp] theorem State.emit_I (s : State) (e : Event) : (s.emit e).I = s.I := rfl
@[simp] theorem State.emit_pc (s : State) (e : Event) : (s.emit e).pc = s.pc := rfl
@[simp] theorem State.emit_SP (s : State) (e : Event) : (s.emit e).SP = s.SP := rfl
@[simp] theorem State.emit_S (s : State) (e : Event) : (s.emit e).S = s.S := rfl
@[simp] theorem State.emit_DT (s : State) (e : Event) : (s.emit e).DT = s.DT := rfl
@[simp] theorem State.emit_ST (s : State) (e : Event) : (s.emit e).ST = s.ST := rfl
@[simp] theorem State.emit_M (s : State) (e : Event) : (s.emit e).M = s.M := rfl
@[simp] theorem State.emit_FB (s : State) (e : Event) : (s.emit e).FB = s.FB := rfl
@[simp] theorem State.emit_K (s : State) (e : Event) : (s.emit e).K = s.K := rfl
@[simp] theorem State.emit_waiting (s : State) (e : Event) : (s.emit e).waiting = s.waiting := rfl
@[simp] theorem State.emit_waitReg (s : State) (e : Event) : (s.emit e).waitReg = s.waitReg := rfl
@[simp] theorem State.emit_initialized (s : State) (e : Event) : (s.emit e).initialized = s.initialized := rfl
@[simp] theorem State.emit_events (s : State) (e : Event) : (s.emit e).events = s.events ++ [e] := rfl
@[simp] theorem State.emit_draws (s : State) (e : Event) : (s.emit e).draws = s.draws := rfl
@[simp] theorem State.emit_config (s : State) (e : Event) : (s.emit e).config = s.config := rfl
@[simp] theorem State.reg_emit (s : State) (e : Event) (q : Reg) : (s.emit e).reg q = s.reg q := rfl
@[simp] theorem State.readByte_emit (s : State) (e : Event) (z : Word) : (s.emit e).readByte z = s.readByte z := rfl
@[simp] theorem State.pixel_emit (s : State) (e : Event) (x' : Fin 64) (y' : Fin 32) : (s.emit e).pixel x' y' = s.pixel x' y' := rfl
@[simp] theorem State.key_emit (s : State) (e : Event) (k' : Key) : (s.emit e).key k' = s.key k' := rfl
@[simp] theorem State.draw_emit (s : State) (e : Event) : (s.emit e).draw = s.draw := rfl

/-! `clearEvents` -/

@[simp] theorem State.clearEvents_V (s : State) : (s.clearEvents).V = s.V := rfl
@[simp] theorem State.clearEvents_I (s : State) : (s.clearEvents).I = s.I := rfl
@[simp] theorem State.clearEvents_pc (s : State) : (s.clearEvents).pc = s.pc := rfl
@[simp] theorem State.clearEvents_SP (s : State) : (s.clearEvents).SP = s.SP := rfl
@[simp] theorem State.clearEvents_S (s : State) : (s.clearEvents).S = s.S := rfl
@[simp] theorem State.clearEvents_DT (s : State) : (s.clearEvents).DT = s.DT := rfl
@[simp] theorem State.clearEvents_ST (s : State) : (s.clearEvents).ST = s.ST := rfl
@[simp] theorem State.clearEvents_M (s : State) : (s.clearEvents).M = s.M := rfl
@[simp] theorem State.clearEvents_FB (s : State) : (s.clearEvents).FB = s.FB := rfl
@[simp] theorem State.clearEvents_K (s : State) : (s.clearEvents).K = s.K := rfl
@[simp] theorem State.clearEvents_waiting (s : State) : (s.clearEvents).waiting = s.waiting := rfl
@[simp] theorem State.clearEvents_waitReg (s : State) : (s.clearEvents).waitReg = s.waitReg := rfl
@[simp] theorem State.clearEvents_initialized (s : State) : (s.clearEvents).initialized = s.initialized := rfl
@[simp] theorem State.clearEvents_events (s : State) : (s.clearEvents).events = [] := rfl
@[simp] theorem State.clearEvents_draws (s : State) : (s.clearEvents).draws = s.draws := rfl
@[simp] theorem State.clearEvents_config (s : State) : (s.clearEvents).config = s.config := rfl
@[simp] theorem State.reg_clearEvents (s : State) (q : Reg) : (s.clearEvents).reg q = s.reg q := rfl
@[simp] theorem State.readByte_clearEvents (s : State) (z : Word) : (s.clearEvents).readByte z = s.readByte z := rfl
@[simp] theorem State.pixel_clearEvents (s : State) (x' : Fin 64) (y' : Fin 32) : (s.clearEvents).pixel x' y' = s.pixel x' y' := rfl
@[simp] theorem State.key_clearEvents (s : State) (k' : Key) : (s.clearEvents).key k' = s.key k' := rfl
@[simp] theorem State.draw_clearEvents (s : State) : (s.clearEvents).draw = s.draw := rfl

/-! `setFlag` -/

@[simp] theorem State.setFlag_V (s : State) (c : Bool) : (s.setFlag c).V = s.V.set VF (flagByte c) := rfl
@[simp] theorem State.setFlag_I (s : State) (c : Bool) : (s.setFlag c).I = s.I := rfl
@[simp] theorem State.setFlag_pc (s : State) (c : Bool) : (s.setFlag c).pc = s.pc := rfl
@[simp] theorem State.setFlag_SP (s : State) (c : Bool) : (s.setFlag c).SP = s.SP := rfl
@[simp] theorem State.setFlag_S (s : State) (c : Bool) : (s.setFlag c).S = s.S := rfl
@[simp] theorem State.setFlag_DT (s : State) (c : Bool) : (s.setFlag c).DT = s.DT := rfl
@[simp] theorem State.setFlag_ST (s : State) (c : Bool) : (s.setFlag c).ST = s.ST := rfl
@[simp] theorem State.setFlag_M (s : State) (c : Bool) : (s.setFlag c).M = s.M := rfl
@[simp] theorem State.setFlag_FB (s : State) (c : Bool) : (s.setFlag c).FB = s.FB := rfl
@[simp] theorem State.setFlag_K (s : State) (c : Bool) : (s.setFlag c).K = s.K := rfl
@[simp] theorem State.setFlag_waiting (s : State) (c : Bool) : (s.setFlag c).waiting = s.waiting := rfl
@[simp] theorem State.setFlag_waitReg (s : State) (c : Bool) : (s.setFlag c).waitReg = s.waitReg := rfl
@[simp] theorem State.setFlag_initialized (s : State) (c : Bool) : (s.setFlag c).initialized = s.initialized := rfl
@[simp] theorem State.setFlag_events (s : State) (c : Bool) : (s.setFlag c).events = s.events := rfl
@[simp] theorem State.setFlag_draws (s : State) (c : Bool) : (s.setFlag c).draws = s.draws := rfl
@[simp] theorem State.setFlag_config (s : State) (c : Bool) : (s.setFlag c).config = s.config := rfl
@[simp] theorem State.readByte_setFlag (s : State) (c : Bool) (z : Word) : (s.setFlag c).readByte z = s.readByte z := rfl
@[simp] theorem State.pixel_setFlag (s : State) (c : Bool) (x' : Fin 64) (y' : Fin 32) : (s.setFlag c).pixel x' y' = s.pixel x' y' := rfl
@[simp] theorem State.key_setFlag (s : State) (c : Bool) (k' : Key) : (s.setFlag c).key k' = s.key k' := rfl
@[simp] theorem State.draw_setFlag (s : State) (c : Bool) : (s.setFlag c).draw = s.draw := rfl

/-! `setRegAndFlag` -/

@[simp] theorem State.setRegAndFlag_V (s : State) (x : Reg) (b : Byte) (c : Bool) : (s.setRegAndFlag x b c).V = (s.V.set x b).set VF (flagByte c) := rfl
@[simp] theorem State.setRegAndFlag_I (s : State) (x : Reg) (b : Byte) (c : Bool) : (s.setRegAndFlag x b c).I = s.I := rfl
@[simp] theorem State.setRegAndFlag_pc (s : State) (x : Reg) (b : Byte) (c : Bool) : (s.setRegAndFlag x b c).pc = s.pc := rfl
@[simp] theorem State.setRegAndFlag_SP (s : State) (x : Reg) (b : Byte) (c : Bool) : (s.setRegAndFlag x b c).SP = s.SP := rfl
@[simp] theorem State.setRegAndFlag_S (s : State) (x : Reg) (b : Byte) (c : Bool) : (s.setRegAndFlag x b c).S = s.S := rfl
@[simp] theorem State.setRegAndFlag_DT (s : State) (x : Reg) (b : Byte) (c : Bool) : (s.setRegAndFlag x b c).DT = s.DT := rfl
@[simp] theorem State.setRegAndFlag_ST (s : State) (x : Reg) (b : Byte) (c : Bool) : (s.setRegAndFlag x b c).ST = s.ST := rfl
@[simp] theorem State.setRegAndFlag_M (s : State) (x : Reg) (b : Byte) (c : Bool) : (s.setRegAndFlag x b c).M = s.M := rfl
@[simp] theorem State.setRegAndFlag_FB (s : State) (x : Reg) (b : Byte) (c : Bool) : (s.setRegAndFlag x b c).FB = s.FB := rfl
@[simp] theorem State.setRegAndFlag_K (s : State) (x : Reg) (b : Byte) (c : Bool) : (s.setRegAndFlag x b c).K = s.K := rfl
@[simp] theorem State.setRegAndFlag_waiting (s : State) (x : Reg) (b : Byte) (c : Bool) : (s.setRegAndFlag x b c).waiting = s.waiting := rfl
@[simp] theorem State.setRegAndFlag_waitReg (s : State) (x : Reg) (b : Byte) (c : Bool) : (s.setRegAndFlag x b c).waitReg = s.waitReg := rfl
@[simp] theorem State.setRegAndFlag_initialized (s : State) (x : Reg) (b : Byte) (c : Bool) : (s.setRegAndFlag x b c).initialized = s.initialized := rfl
@[simp] theorem State.setRegAndFlag_events (s : State) (x : Reg) (b : Byte) (c : Bool) : (s.setRegAndFlag x b c).events = s.events := rfl
@[simp] theorem State.setRegAndFlag_draws (s : State) (x : Reg) (b : Byte) (c : Bool) : (s.setRegAndFlag x b c).draws = s.draws := rfl
@[simp] theorem State.setRegAndFlag_config (s : State) (x : Reg) (b : Byte) (c : Bool) : (s.setRegAndFlag x b c).config = s.config := rfl
@[simp] theorem State.readByte_setRegAndFlag (s : State) (x : Reg) (b : Byte) (c : Bool) (z : Word) : (s.setRegAndFlag x b c).readByte z = s.readByte z := rfl
@[simp] theorem State.pixel_setRegAndFlag (s : State) (x : Reg) (b : Byte) (c : Bool) (x' : Fin 64) (y' : Fin 32) : (s.setRegAndFlag x b c).pixel x' y' = s.pixel x' y' := rfl
@[simp] theorem State.key_setRegAndFlag (s : State) (x : Reg) (b : Byte) (c : Bool) (k' : Key) : (s.setRegAndFlag x b c).key k' = s.key k' := rfl
@[simp] theorem State.draw_setRegAndFlag (s : State) (x : Reg) (b : Byte) (c : Bool) : (s.setRegAndFlag x b c).draw = s.draw := rfl

/-! `beginInstr` -/

@[simp] theorem State.beginInstr_V (s : State) : (s.beginInstr).V = s.V := rfl
@[simp] theorem State.beginInstr_I (s : State) : (s.beginInstr).I = s.I := rfl
@[simp] theorem State.beginInstr_pc (s : State) : (s.beginInstr).pc = s.pc + 2 := rfl
@[simp] theorem State.beginInstr_SP (s : State) : (s.beginInstr).SP = s.SP := rfl
@[simp] theorem State.beginInstr_S (s : State) : (s.beginInstr).S = s.S := rfl
@[simp] theorem State.beginInstr_DT (s : State) : (s.beginInstr).DT = s.DT := rfl
@[simp] theorem State.beginInstr_ST (s : State) : (s.beginInstr).ST = s.ST := rfl
@[simp] theorem State.beginInstr_M (s : State) : (s.beginInstr).M = s.M := rfl
@[simp] theorem State.beginInstr_FB (s : State) : (s.beginInstr).FB = s.FB := rfl
@[simp] theorem State.beginInstr_K (s : State) : (s.beginInstr).K = s.K := rfl
@[simp] theorem State.beginInstr_waiting (s : State) : (s.beginInstr).waiting = s.waiting := rfl
@[simp] theorem State.beginInstr_waitReg (s : State) : (s.beginInstr).waitReg = s.waitReg := rfl
@[simp] theorem State.beginInstr_initialized (s : State) : (s.beginInstr).initialized = s.initialized := rfl
@[simp] theorem State.beginInstr_events (s : State) : (s.beginInstr).events = [] := rfl
@[simp] theorem State.beginInstr_draws (s : State) : (s.beginInstr).draws = s.draws := rfl
@[simp] theorem State.beginInstr_config (s : State) : (s.beginInstr).config = s.config := rfl
@[simp] theorem State.reg_beginInstr (s : State) (q : Reg) : (s.beginInstr).reg q = s.reg q := rfl
@[simp] theorem State.readByte_beginInstr (s : State) (z : Word) : (s.beginInstr).readByte z = s.readByte z := rfl
@[simp] theorem State.pixel_beginInstr (s : State) (x' : Fin 64) (y' : Fin 32) : (s.beginInstr).pixel x' y' = s.pixel x' y' := rfl
@[simp] theorem State.key_beginInstr (s : State) (k' : Key) : (s.beginInstr).key k' = s.key k' := rfl
@[simp] theorem State.draw_beginInstr (s : State) : (s.beginInstr).draw = s.draw := rfl

/-! `writeBytes`: a list of writes changes nothing but what one write changes. -/

theorem State.writeBytes_nil (s : State) : s.writeBytes [] = s := rfl

theorem State.writeBytes_cons (s : State) (m) (ms : List (Word × Byte)) : s.writeBytes (m :: ms) = (s.writeByte m.1 m.2).writeBytes ms := rfl

@[simp] theorem State.writeBytes_V (s : State) (ms : List (Word × Byte)) : (s.writeBytes ms).V = s.V := by
  induction ms generalizing s with
  | nil => rfl
  | cons m ms ih => rw [State.writeBytes_cons, ih]; rfl

@[simp] theorem State.writeBytes_I (s : State) (ms : List (Word × Byte)) : (s.writeBytes ms).I = s.I := by
  induction ms generalizing s with
  | nil => rfl
  | cons m ms ih => rw [State.writeBytes_cons, ih]; rfl

@[simp] theorem State.writeBytes_pc (s : State) (ms : List (Word × Byte)) : (s.writeBytes ms).pc = s.pc := by
  induction ms generalizing s with
  | nil => rfl
  | cons m ms ih => rw [State.writeBytes_cons, ih]; rfl

@[simp] theorem State.writeBytes_SP (s : State) (ms : List (Word × Byte)) : (s.writeBytes ms).SP = s.SP := by
  induction ms generalizing s with
  | nil => rfl
  | cons m ms ih => rw [State.writeBytes_cons, ih]; rfl

@[simp] theorem State.writeBytes_S (s : State) (ms : List (Word × Byte)) : (s.writeBytes ms).S = s.S := by
  induction ms generalizing s with
  | nil => rfl
  | cons m ms ih => rw [State.writeBytes_cons, ih]; rfl

@[simp] theorem State.writeBytes_DT (s : State) (ms : List (Word × Byte)) : (s.writeBytes ms).DT = s.DT := by
  induction ms generalizing s with
  | nil => rfl
  | cons m ms ih => rw [State.writeBytes_cons, ih]; rfl

@[simp] theorem State.writeBytes_ST (s : State) (ms : List (Word × Byte)) : (s.writeBytes ms).ST = s.ST := by
  induction ms generalizing s with
  | nil => rfl
  | cons m ms ih => rw [State.writeBytes_cons, ih]; rfl

@[simp] theorem State.writeBytes_FB (s : State) (ms : List (Word × Byte)) : (s.writeBytes ms).FB = s.FB := by
  induction ms generalizing s with
  | nil => rfl
  | cons m ms ih => rw [State.writeBytes_cons, ih]; rfl

@[simp] theorem State.writeBytes_K (s : State) (ms : List (Word × Byte)) : (s.writeBytes ms).K = s.K := by
  induction ms generalizing s with
  | nil => rfl
  | cons m ms ih => rw [State.writeBytes_cons, ih]; rfl

@[simp] theorem State.writeBytes_waiting (s : State) (ms : List (Word × Byte)) : (s.writeBytes ms).waiting = s.waiting := by
  induction ms generalizing s with
  | nil => rfl
  | cons m ms ih => rw [State.writeBytes_cons, ih]; rfl

@[simp] theorem State.writeBytes_waitReg (s : State) (ms : List (Word × Byte)) : (s.writeBytes ms).waitReg = s.waitReg := by
  induction ms generalizing s with
  | nil => rfl
  | cons m ms ih => rw [State.writeBytes_cons, ih]; rfl

@[simp] theorem State.writeBytes_initialized (s : State) (ms : List (Word × Byte)) : (s.writeBytes ms).initialized = s.initialized := by
  induction ms generalizing s with
  | nil => rfl
  | cons m ms ih => rw [State.writeBytes_cons, ih]; rfl

@[simp] theorem State.writeBytes_events (s : State) (ms : List (Word × Byte)) : (s.writeBytes ms).events = s.events := by
  induction ms generalizing s with
  | nil => rfl
  | cons m ms ih => rw [State.writeBytes_cons, ih]; rfl

@[simp] theorem State.writeBytes_draws (s : State) (ms : List (Word × Byte)) : (s.writeBytes ms).draws = s.draws := by
  induction ms generalizing s with
  | nil => rfl
  | cons m ms ih => rw [State.writeBytes_cons, ih]; rfl

@[simp] theorem State.writeBytes_config (s : State) (ms : List (Word × Byte)) : (s.writeBytes ms).config = s.config := by
  induction ms generalizing s with
  | nil => rfl
  | cons m ms ih => rw [State.writeBytes_cons, ih]; rfl

@[simp] theorem State.reg_writeBytes (s : State) (ms : List (Word × Byte)) (q : Reg) : (s.writeBytes ms).reg q = s.reg q := by
  simp [State.reg]

@[simp] theorem State.pixel_writeBytes (s : State) (ms : List (Word × Byte)) (x' : Fin 64) (y' : Fin 32) : (s.writeBytes ms).pixel x' y' = s.pixel x' y' := by
  simp [State.pixel]

@[simp] theorem State.key_writeBytes (s : State) (ms : List (Word × Byte)) (k' : Key) : (s.writeBytes ms).key k' = s.key k' := by
  simp [State.key]

@[simp] theorem State.draw_writeBytes (s : State) (ms : List (Word × Byte)) : (s.writeBytes ms).draw = s.draw := by
  simp [State.draw]

/-! `setRegs`: a list of writes changes nothing but what one write changes. -/

theorem State.setRegs_nil (s : State) : s.setRegs [] = s := rfl

theorem State.setRegs_cons (s : State) (m) (ms : List (Reg × Byte)) : s.setRegs (m :: ms) = (s.setReg m.1 m.2).setRegs ms := rfl

@[simp] theorem State.setRegs_I (s : State) (ms : List (Reg × Byte)) : (s.setRegs ms).I = s.I := by
  induction ms generalizing s with
  | nil => rfl
  | cons m ms ih => rw [State.setRegs_cons, ih]; rfl

@[simp] theorem State.setRegs_pc (s : State) (ms : List (Reg × Byte)) : (s.setRegs ms).pc = s.pc := by
  induction ms generalizing s with
  | nil => rfl
  | cons m ms ih => rw [State.setRegs_cons, ih]; rfl

@[simp] theorem State.setRegs_SP (s : State) (ms : List (Reg × Byte)) : (s.setRegs ms).SP = s.SP := by
  induction ms generalizing s with
  | nil => rfl
  | cons m ms ih => rw [State.setRegs_cons, ih]; rfl

@[simp] theorem State.setRegs_S (s : State) (ms : List (Reg × Byte)) : (s.setRegs ms).S = s.S := by
  induction ms generalizing s with
  | nil => rfl
  | cons m ms ih => rw [State.setRegs_cons, ih]; rfl

@[simp] theorem State.setRegs_DT (s : State) (ms : List (Reg × Byte)) : (s.setRegs ms).DT = s.DT := by
  induction ms generalizing s with
  | nil => rfl
  | cons m ms ih => rw [State.setRegs_cons, ih]; rfl

@[simp] theorem State.setRegs_ST (s : State) (ms : List (Reg × Byte)) : (s.setRegs ms).ST = s.ST := by
  induction ms generalizing s with
  | nil => rfl
  | cons m ms ih => rw [State.setRegs_cons, ih]; rfl

@[simp] theorem State.setRegs_M (s : State) (ms : List (Reg × Byte)) : (s.setRegs ms).M = s.M := by
  induction ms generalizing s with
  | nil => rfl
  | cons m ms ih => rw [State.setRegs_cons, ih]; rfl

@[simp] theorem State.setRegs_FB (s : State) (ms : List (Reg × Byte)) : (s.setRegs ms).FB = s.FB := by
  induction ms generalizing s with
  | nil => rfl
  | cons m ms ih => rw [State.setRegs_cons, ih]; rfl

@[simp] theorem State.setRegs_K (s : State) (ms : List (Reg × Byte)) : (s.setRegs ms).K = s.K := by
  induction ms generalizing s with
  | nil => rfl
  | cons m ms ih => rw [State.setRegs_cons, ih]; rfl

@[simp] theorem State.setRegs_waiting (s : State) (ms : List (Reg × Byte)) : (s.setRegs ms).waiting = s.waiting := by
  induction ms generalizing s with
  | nil => rfl
  | cons m ms ih => rw [State.setRegs_cons, ih]; rfl

@[simp] theorem State.setRegs_waitReg (s : State) (ms : List (Reg × Byte)) : (s.setRegs ms).waitReg = s.waitReg := by
  induction ms generalizing s with
  | nil => rfl
  | cons m ms ih => rw [State.setRegs_cons, ih]; rfl

@[simp] theorem State.setRegs_initialized (s : State) (ms : List (Reg × Byte)) : (s.setRegs ms).initialized = s.initialized := by
  induction ms generalizing s with
  | nil => rfl
  | cons m ms ih => rw [State.setRegs_cons, ih]; rfl

@[simp] theorem State.setRegs_events (s : State) (ms : List (Reg × Byte)) : (s.setRegs ms).events = s.events := by
  induction ms generalizing s with
  | nil => rfl
  | cons m ms ih => rw [State.setRegs_cons, ih]; rfl

@[simp] theorem State.setRegs_draws (s : State) (ms : List (Reg × Byte)) : (s.setRegs ms).draws = s.draws := by
  induction ms generalizing s with
  | nil => rfl
  | cons m ms ih => rw [State.setRegs_cons, ih]; rfl

@[simp] theorem State.setRegs_config (s : State) (ms : List (Reg × Byte)) : (s.setRegs ms).config = s.config := by
  induction ms generalizing s with
  | nil => rfl
  | cons m ms ih => rw [State.setRegs_cons, ih]; rfl

@[simp] theorem State.readByte_setRegs (s : State) (ms : List (Reg × Byte)) (z : Word) : (s.setRegs ms).readByte z = s.readByte z := by
  simp [State.readByte]

@[simp] theorem State.pixel_setRegs (s : State) (ms : List (Reg × Byte)) (x' : Fin 64) (y' : Fin 32) : (s.setRegs ms).pixel x' y' = s.pixel x' y' := by
  simp [State.pixel]

@[simp] theorem State.key_setRegs (s : State) (ms : List (Reg × Byte)) (k' : Key) : (s.setRegs ms).key k' = s.key k' := by
  simp [State.key]

@[simp] theorem State.draw_setRegs (s : State) (ms : List (Reg × Byte)) : (s.setRegs ms).draw = s.draw := by
  simp [State.draw]

end Sys2Proof.Machine
end

