-- ==== Sys2Proof/Laws/Ops.lean ====
section
/-! SUPPORT. The laws of the shared operations: reads after writes of registers, stack entries, keys
and pixels, lists of writes, effective addresses, skips, ticks and the component reset. -/

namespace Sys2Proof.Machine

/-! ### Widened values and flags as numbers -/

theorem addr16_toNat (nnn : Addr12) : (addr16 nnn).toNat = nnn.toNat := by
  simp [addr16]
  omega

theorem zext16_toNat (b : Byte) : (zext16 b).toNat = b.toNat := by
  simp [zext16]
  omega

theorem flagByte_eq_one (c : Bool) : flagByte c = 1 ↔ c = true := by cases c <;> decide

theorem flagByte_eq_zero (c : Bool) : flagByte c = 0 ↔ c = false := by cases c <;> decide

/-! ### Reads after single writes -/

@[simp] theorem State.reg_setReg (s : State) (r q : Reg) (b : Byte) :
    (s.setReg r b).reg q = if q = r then b else s.reg q := by
  simp [State.reg, State.setReg, Vector.getElem_set, Fin.ext_iff, eq_comm]

@[simp] theorem State.reg_setFlag (s : State) (q : Reg) (c : Bool) :
    (s.setFlag c).reg q = if q = VF then flagByte c else s.reg q :=
  State.reg_setReg s VF q (flagByte c)

/-- The flag is written last: for x = F it is what stays (R201). -/
@[simp] theorem State.reg_setRegAndFlag (s : State) (x q : Reg) (b : Byte) (c : Bool) :
    (s.setRegAndFlag x b c).reg q =
      if q = VF then flagByte c else if q = x then b else s.reg q := by
  simp [State.setRegAndFlag]

@[simp] theorem State.reg_endWait (s : State) (k : Key) (q : Reg) :
    (s.endWait k).reg q = if q = s.waitReg then BitVec.ofNat 8 k.val else s.reg q :=
  State.reg_setReg s s.waitReg q (BitVec.ofNat 8 k.val)

@[simp] theorem State.key_setKeyLevel (s : State) (k q : Key) (d : Bool) :
    (s.setKeyLevel k d).key q = if q = k then d else s.key q := by
  simp [State.key, State.setKeyLevel, Vector.getElem_set, Fin.ext_iff, eq_comm]

@[simp] theorem Framebuffer.pixel_toggle (fb : Framebuffer) (x x' : Fin 64) (y y' : Fin 32) :
    Framebuffer.pixel (Framebuffer.toggle fb x y) x' y' =
      if x' = x ∧ y' = y then !Framebuffer.pixel fb x' y' else Framebuffer.pixel fb x' y' := by
  by_cases hy : y' = y
  · subst hy
    by_cases hx : x' = x
    · subst hx
      simp [Framebuffer.pixel, Framebuffer.toggle]
    · have : ¬ x.val = x'.val := fun h => hx (Fin.ext h.symm)
      simp [Framebuffer.pixel, Framebuffer.toggle, hx, this]
  · have : ¬ y.val = y'.val := fun h => hy (Fin.ext h.symm)
    simp [Framebuffer.pixel, Framebuffer.toggle, hy, this]

@[simp] theorem Framebuffer.pixel_clear (x : Fin 64) (y : Fin 32) :
    Framebuffer.pixel Framebuffer.clear x y = false := by
  simp [Framebuffer.pixel, Framebuffer.clear]

/-- Two screens with the same pixels are the same screen. -/
theorem Framebuffer.ext_pixel {f g : Framebuffer}
    (h : ∀ x y, Framebuffer.pixel f x y = Framebuffer.pixel g x y) : f = g := by
  apply Vector.ext
  intro j hj
  apply Vector.ext
  intro i hi
  exact h ⟨i, hi⟩ ⟨j, hj⟩

/-! ### Effective addresses -/

theorem cellOf_eq (a : Word) : cellOf a = a.toNat % 4096 := rfl

/-- The cell of an effective address (R246). -/
theorem State.cellOf_effAddr (s : State) (i : Nat) :
    cellOf (s.effAddr i) = (s.I.toNat + i) % 4096 := by
  simp only [cellOf, State.effAddr, BitVec.toNat_add, BitVec.toNat_ofNat]
  omega

/-- Offsets below 4096 reach different cells (R244: the addresses are distinct modulo 4096). -/
theorem State.effAddr_cell_inj (s : State) {i j : Nat} (hi : i < 4096) (hj : j < 4096)
    (h : cellOf (s.effAddr i) = cellOf (s.effAddr j)) : i = j := by
  simp only [State.cellOf_effAddr] at h
  omega

/-- What FX55 and FX65 leave in `I`, as a number (R244, R245). -/
theorem State.nextI_toNat (s : State) (x : Reg) :
    (s.nextI x).toNat = (s.I.toNat + x.val + 1) % 65536 := by
  simp only [State.nextI, BitVec.toNat_add, BitVec.toNat_ofNat]
  omega

@[simp] theorem mem_regsUpTo (x r : Reg) : r ∈ regsUpTo x ↔ r ≤ x := by
  simp [regsUpTo]

theorem nodup_regsUpTo (x : Reg) : (regsUpTo x).Nodup := (List.nodup_finRange 16).filter _

/-! ### Lists of writes -/

/-- A cell that no write of the list reaches reads as before. -/
theorem State.readByte_writeBytes_of_forall_ne (s : State) (ws : List (Word × Byte)) (z : Word)
    (h : ∀ w ∈ ws, cellOf z ≠ cellOf w.1) : (s.writeBytes ws).readByte z = s.readByte z := by
  induction ws generalizing s with
  | nil => rfl
  | cons w ws ih =>
    rw [State.writeBytes_cons, ih _ (fun v hv => h v (by simp [hv])), State.readByte_writeByte,
      if_neg (h w (by simp))]

/-- After a list of writes to different cells, each written cell reads as its byte. -/
theorem State.readByte_writeBytes_of_mem (s : State) (ws : List (Word × Byte))
    (hd : ws.Pairwise (fun v w => cellOf v.1 ≠ cellOf w.1)) {w : Word × Byte} (hw : w ∈ ws) :
    (s.writeBytes ws).readByte w.1 = w.2 := by
  induction ws generalizing s with
  | nil => simp at hw
  | cons v ws ih =>
    rw [List.pairwise_cons] at hd
    rw [State.writeBytes_cons]
    rcases List.mem_cons.1 hw with rfl | hw
    · rw [State.readByte_writeBytes_of_forall_ne _ _ _ (fun u hu => hd.1 u hu)]
      simp
    · exact ih _ hd.2 hw

/-- A list of writes keeps the canonical form. -/
theorem State.wf_writeBytes (s : State) (ws : List (Word × Byte))
    (h : Memory.wf s.config.font s.M) : Memory.wf s.config.font (s.writeBytes ws).M := by
  induction ws generalizing s with
  | nil => exact h
  | cons w ws ih => exact ih (s.writeByte w.1 w.2) (Memory.wf_write h (cellOf_lt w.1))

/-- A register that no write of the list names is as before. -/
theorem State.reg_setRegs_of_forall_ne (s : State) (ws : List (Reg × Byte)) (q : Reg)
    (h : ∀ w ∈ ws, q ≠ w.1) : (s.setRegs ws).reg q = s.reg q := by
  induction ws generalizing s with
  | nil => rfl
  | cons w ws ih =>
    rw [State.setRegs_cons, ih _ (fun v hv => h v (by simp [hv])), State.reg_setReg,
      if_neg (h w (by simp))]

/-- After a list of writes to different registers, each written register holds its byte. -/
theorem State.reg_setRegs_of_mem (s : State) (ws : List (Reg × Byte))
    (hd : ws.Pairwise (fun v w => v.1 ≠ w.1)) {w : Reg × Byte} (hw : w ∈ ws) :
    (s.setRegs ws).reg w.1 = w.2 := by
  induction ws generalizing s with
  | nil => simp at hw
  | cons v ws ih =>
    rw [List.pairwise_cons] at hd
    rw [State.setRegs_cons]
    rcases List.mem_cons.1 hw with rfl | hw
    · rw [State.reg_setRegs_of_forall_ne _ _ _ (fun u hu => hd.1 u hu)]
      simp
    · exact ih _ hd.2 hw

/-! ### FX55 and FX65 -/

theorem State.regStores_cells_differ (s : State) (x : Reg) :
    (s.regStores x).Pairwise (fun v w => cellOf v.1 ≠ cellOf w.1) := by
  refine List.pairwise_map.2 ((nodup_regsUpTo x).imp (fun {a b} hab h => hab (Fin.ext ?_)))
  exact s.effAddr_cell_inj (by omega) (by omega) h

/-- What FX55 stores (R244): V[r] at `I + r` for every r up to x. -/
theorem State.readByte_regStores (s : State) {x r : Reg} (h : r ≤ x) :
    (s.writeBytes (s.regStores x)).readByte (s.effAddr r.val) = s.reg r :=
  s.readByte_writeBytes_of_mem _ (s.regStores_cells_differ x)
    (List.mem_map.2 ⟨r, (mem_regsUpTo x r).2 h, rfl⟩)

/-- FX55 stores nowhere else (R244). -/
theorem State.readByte_regStores_of_ne (s : State) (x : Reg) (z : Word)
    (h : ∀ i : Nat, i ≤ x.val → cellOf z ≠ cellOf (s.effAddr i)) :
    (s.writeBytes (s.regStores x)).readByte z = s.readByte z := by
  apply s.readByte_writeBytes_of_forall_ne
  intro w hw
  obtain ⟨r, hr, rfl⟩ := List.mem_map.1 hw
  exact h r.val ((mem_regsUpTo x r).1 hr)

/-- What FX65 loads (R245): the byte at `I + r` in V[r] for every r up to x, and no other register. -/
theorem State.reg_regLoads (s : State) (x q : Reg) :
    (s.setRegs (s.regLoads x)).reg q = if q ≤ x then s.readByte (s.effAddr q.val) else s.reg q := by
  split
  · next h =>
    exact s.reg_setRegs_of_mem _
      (List.pairwise_map.2 ((nodup_regsUpTo x).imp (fun hab => hab)))
      (List.mem_map.2 ⟨q, (mem_regsUpTo x q).2 h, rfl⟩)
  · next h =>
    apply s.reg_setRegs_of_forall_ne
    intro w hw
    obtain ⟨r, hr, rfl⟩ := List.mem_map.1 hw
    exact fun hq => h (hq ▸ (mem_regsUpTo x r).1 hr)

/-! ### Skips -/

theorem State.skipIf_pc (s : State) (c : Bool) :
    (s.skipIf c).pc = if c = true then s.pc + 2 else s.pc := by
  unfold State.skipIf
  split <;> rfl

/-- A skip is a write of `pc`. -/
theorem State.skipIf_eq (s : State) (c : Bool) :
    s.skipIf c = s.setPc (if c = true then s.pc + 2 else s.pc) := by
  unfold State.skipIf
  split <;> rfl

/-! ### Ticks -/

theorem State.tickDelay_eq (s : State) :
    s.tickDelay = { s with DT := if s.DT = 0 then 0 else s.DT - 1 } := by
  unfold State.tickDelay
  split
  · next h => cases s; cases h; rfl
  · rfl

theorem State.tickSound_eq (s : State) :
    s.tickSound = { s with
      ST := 0
      events := if s.ST = 0 then s.events else s.events ++ [.requestBeep s.ST] } := by
  unfold State.tickSound
  split
  · next h => cases s; cases h; rfl
  · rfl

/-- What one tick leaves: both timers, at most one event, and nothing else (R340, R341). -/
theorem State.timerTick_eq (s : State) :
    s.timerTick = { s with
      DT := if s.DT = 0 then 0 else s.DT - 1
      ST := 0
      events := if s.ST = 0 then s.events else s.events ++ [.requestBeep s.ST] } := by
  rw [State.timerTick, State.tickSound_eq, State.tickDelay_eq]

/-- A step's tick is one tick under `PerStep` and nothing under `External` (R135). -/
theorem State.stepTick_eq (s : State) :
    s.stepTick = if s.config.timerCadence = .perStep then s.timerTick else s := by
  unfold State.stepTick
  cases s.config.timerCadence <;> rfl

/-! ### The invariant of the updates -/

@[simp] theorem State.componentReset_config (s : State) : s.componentReset.config = s.config := rfl

@[simp] theorem State.componentReset_M (s : State) : s.componentReset.M = [] := rfl

@[simp] theorem State.componentReset_SP (s : State) : s.componentReset.SP = 0 := rfl

end Sys2Proof.Machine
end

