-- ==== Sys2Proof/Laws/Blitter.lean ====
section
/-! SUPPORT. What the blitter does, said once: a drawing toggles exactly the pixels under a set bit,
each once, and its collision is that one of them was on (spec/45_display.md R271 to R273). -/

namespace Sys2Proof.Machine

/-! ### Touching a list of pixels -/

/-- Touches the pixels of a list in order. -/
def Blit.touchAll (p : Blit) (l : List (Fin 64 × Fin 32)) : Blit :=
  l.foldl (fun q c => q.touch c.1 c.2) p

theorem Blit.touchAll_cons (p : Blit) (c : Fin 64 × Fin 32) (l : List (Fin 64 × Fin 32)) :
    p.touchAll (c :: l) = (p.touch c.1 c.2).touchAll l := rfl

theorem Blit.touchAll_append (p : Blit) (l m : List (Fin 64 × Fin 32)) :
    p.touchAll (l ++ m) = (p.touchAll l).touchAll m := List.foldl_append

/-- Touching different pixels toggles exactly those. -/
theorem Blit.pixel_touchAll (p : Blit) (l : List (Fin 64 × Fin 32)) (hl : l.Nodup)
    (x : Fin 64) (y : Fin 32) : Framebuffer.pixel (p.touchAll l).fb x y =
      if (x, y) ∈ l then !Framebuffer.pixel p.fb x y else Framebuffer.pixel p.fb x y := by
  induction l generalizing p with
  | nil => simp [Blit.touchAll]
  | cons c l ih =>
    obtain ⟨a, b⟩ := c
    rw [List.nodup_cons] at hl
    rw [Blit.touchAll_cons, ih _ hl.2]
    simp only [Blit.touch, Framebuffer.pixel_toggle, List.mem_cons, Prod.mk.injEq]
    by_cases h : x = a ∧ y = b
    · obtain ⟨rfl, rfl⟩ := h
      simp [hl.1]
    · simp [h]

/-- Touching different pixels collides exactly when one of them was on. -/
theorem Blit.hit_touchAll (p : Blit) (l : List (Fin 64 × Fin 32)) (hl : l.Nodup) :
    (p.touchAll l).hit = true ↔
      p.hit = true ∨ ∃ x y, (x, y) ∈ l ∧ Framebuffer.pixel p.fb x y = true := by
  induction l generalizing p with
  | nil => simp [Blit.touchAll]
  | cons c l ih =>
    obtain ⟨a, b⟩ := c
    rw [List.nodup_cons] at hl
    rw [Blit.touchAll_cons, ih _ hl.2]
    simp only [Blit.touch, Bool.or_eq_true, List.mem_cons, Prod.mk.injEq, Framebuffer.pixel_toggle]
    constructor
    · rintro ((h | h) | ⟨x, y, hm, h⟩)
      · exact .inl h
      · exact .inr ⟨a, b, .inl ⟨rfl, rfl⟩, h⟩
      · have hne : ¬ (x = a ∧ y = b) := fun e => hl.1 (by rw [← e.1, ← e.2]; exact hm)
        rw [if_neg hne] at h
        exact .inr ⟨x, y, .inr hm, h⟩
    · rintro (h | ⟨x, y, ⟨rfl, rfl⟩ | hm, h⟩)
      · exact .inl (.inl h)
      · exact .inl (.inr h)
      · have hne : ¬ (x = a ∧ y = b) := fun e => hl.1 (by rw [← e.1, ← e.2]; exact hm)
        exact .inr ⟨x, y, hm, by rw [if_neg hne]; exact h⟩

/-! ### The pixels of a sprite -/

/-- The pixels under the set bits of one sprite row. -/
def rowPixels (x0 : Byte) (y : Fin 32) (row : Byte) : List (Fin 64 × Fin 32) :=
  ((List.range 8).filter (spriteBit row)).map (fun b => (column x0 b, y))

/-- The pixels under the set bits of the rows from row number `r` on. -/
def spritePixels (x0 y0 : Byte) : List Byte → Nat → List (Fin 64 × Fin 32)
  | [], _ => []
  | row :: rest, r => rowPixels x0 (line y0 r) row ++ spritePixels x0 y0 rest (r + 1)

theorem blitRow_eq (x0 : Byte) (y : Fin 32) (row : Byte) (p : Blit) :
    blitRow x0 y row p = p.touchAll (rowPixels x0 y row) := by
  simp only [blitRow, Blit.touchAll, rowPixels, List.foldl_map, List.foldl_filter]

theorem blitRows_eq (x0 y0 : Byte) (rows : List Byte) (r : Nat) (p : Blit) :
    blitRows x0 y0 rows r p = p.touchAll (spritePixels x0 y0 rows r) := by
  induction rows generalizing r p with
  | nil => rfl
  | cons row rest ih => rw [blitRows, ih, blitRow_eq, spritePixels, Blit.touchAll_append]

theorem mem_rowPixels {x0 row : Byte} {y py : Fin 32} {px : Fin 64} :
    (px, py) ∈ rowPixels x0 y row ↔
      py = y ∧ ∃ b, b < 8 ∧ spriteBit row b = true ∧ px = column x0 b := by
  simp only [rowPixels, List.mem_map, List.mem_filter, List.mem_range, Prod.mk.injEq]
  constructor
  · rintro ⟨b, ⟨hb, hs⟩, rfl, rfl⟩
    exact ⟨rfl, b, hb, hs, rfl⟩
  · rintro ⟨rfl, b, hb, hs, rfl⟩
    exact ⟨b, ⟨hb, hs⟩, rfl, rfl⟩

theorem mem_spritePixels {x0 y0 : Byte} {rows : List Byte} {r : Nat} {px : Fin 64} {py : Fin 32} :
    (px, py) ∈ spritePixels x0 y0 rows r ↔
      ∃ j b, ∃ h : j < rows.length, b < 8 ∧ spriteBit rows[j] b = true ∧ px = column x0 b ∧
        py = line y0 (r + j) := by
  induction rows generalizing r with
  | nil => simp [spritePixels]
  | cons row rest ih =>
    rw [spritePixels, List.mem_append, mem_rowPixels, ih]
    constructor
    · rintro (⟨rfl, b, hb, hs, rfl⟩ | ⟨j, b, hj, hb, hs, rfl, rfl⟩)
      · exact ⟨0, b, by simp, hb, by simpa using hs, rfl, rfl⟩
      · exact ⟨j + 1, b, by simpa using hj, hb, by simpa using hs, rfl, by congr 1; omega⟩
    · rintro ⟨j, b, hj, hb, hs, rfl, rfl⟩
      cases j with
      | zero => exact .inl ⟨rfl, b, hb, by simpa using hs, rfl⟩
      | succ j =>
        exact .inr ⟨j, b, by simpa using hj, hb, by simpa using hs, rfl, by congr 1; omega⟩

/-- The eight columns of a row are different (R273). -/
theorem nodup_rowPixels (x0 : Byte) (y : Fin 32) (row : Byte) : (rowPixels x0 y row).Nodup := by
  refine List.Nodup.map_on ?_ ((List.nodup_range).filter _)
  intro a ha b hb h
  simp only [List.mem_filter, List.mem_range] at ha hb
  have := congrArg (fun c : Fin 64 × Fin 32 => c.1.val) h
  simp only [column, Fin.val_ofNat] at this
  omega

/-- Up to 32 rows lie on different lines, so no pixel is touched twice (R273). -/
theorem nodup_spritePixels (x0 y0 : Byte) (rows : List Byte) (r : Nat) (h : rows.length ≤ 32) :
    (spritePixels x0 y0 rows r).Nodup := by
  induction rows generalizing r with
  | nil => simp [spritePixels]
  | cons row rest ih =>
    simp only [List.length_cons] at h
    refine List.Nodup.append (nodup_rowPixels _ _ _) (ih _ (by omega)) ?_
    rintro ⟨px, py⟩ h1 h2
    obtain ⟨e1, -⟩ := mem_rowPixels.1 h1
    obtain ⟨j, b, hj, -, -, -, e2⟩ := mem_spritePixels.1 h2
    have := congrArg Fin.val (e1.symm.trans e2)
    simp only [line, Fin.val_ofNat] at this
    omega

/-! ### What DXYN draws -/

theorem State.length_spriteRows (s : State) (n : RowCount) : (s.spriteRows n).length = n.val := by
  simp [State.spriteRows]

/-- A pixel is touched exactly when a set bit of the sprite covers it. -/
theorem State.mem_spritePixels_iff (s : State) (x y : Reg) (n : RowCount) (px : Fin 64) (py : Fin 32) :
    (px, py) ∈ spritePixels (s.reg x) (s.reg y) (s.spriteRows n) 0 ↔ SpriteCovers s x y n px py := by
  rw [mem_spritePixels]
  simp only [SpriteCovers, State.length_spriteRows, column, line, Fin.ext_iff, Fin.val_ofNat,
    spriteBit, Nat.zero_add]
  constructor
  · rintro ⟨j, b, hj, hb, hs, hx, hy⟩
    exact ⟨j, b, hj, hb, by simpa [State.spriteRows, State.effAddr] using hs, hx, hy⟩
  · rintro ⟨j, b, hj, hb, hs, hx, hy⟩
    exact ⟨j, b, hj, hb, by simpa [State.spriteRows, State.effAddr] using hs, hx, hy⟩

theorem State.sprite_eq (s : State) (x y : Reg) (n : RowCount) :
    s.sprite x y n = Blit.touchAll { fb := s.FB, hit := false }
      (spritePixels (s.reg x) (s.reg y) (s.spriteRows n) 0) :=
  blitRows_eq _ _ _ _ _

theorem State.nodup_sprite (s : State) (x y : Reg) (n : RowCount) :
    (spritePixels (s.reg x) (s.reg y) (s.spriteRows n) 0).Nodup :=
  nodup_spritePixels _ _ _ _ (by rw [State.length_spriteRows]; omega)

/-- The screen after DXYN's drawing: exactly the covered pixels toggle (R271). -/
theorem State.pixel_sprite_of_covers (s : State) (x y : Reg) (n : RowCount) {px : Fin 64} {py : Fin 32}
    (h : SpriteCovers s x y n px py) :
    Framebuffer.pixel (s.sprite x y n).fb px py = !s.pixel px py := by
  rw [State.sprite_eq, Blit.pixel_touchAll _ _ (s.nodup_sprite x y n),
    if_pos ((s.mem_spritePixels_iff x y n px py).2 h)]
  rfl

theorem State.pixel_sprite_of_not_covers (s : State) (x y : Reg) (n : RowCount) {px : Fin 64}
    {py : Fin 32} (h : ¬ SpriteCovers s x y n px py) :
    Framebuffer.pixel (s.sprite x y n).fb px py = s.pixel px py := by
  rw [State.sprite_eq, Blit.pixel_touchAll _ _ (s.nodup_sprite x y n),
    if_neg (fun hm => h ((s.mem_spritePixels_iff x y n px py).1 hm))]
  rfl

/-- DXYN's collision: a covered pixel was on (R271). -/
theorem State.hit_sprite (s : State) (x y : Reg) (n : RowCount) :
    (s.sprite x y n).hit = true ↔ ∃ px py, SpriteCovers s x y n px py ∧ s.pixel px py = true := by
  rw [State.sprite_eq, Blit.hit_touchAll _ _ (s.nodup_sprite x y n)]
  simp only [Bool.false_eq_true, false_or, State.mem_spritePixels_iff]
  rfl

/-- R273's second law, read for every screen, contradicts its third: whatever VF a draw leaves, and
whatever history `h` it may depend on, if a draw onto a clear screen always leaves 0, then some screen
makes the second draw of a one-bit sprite leave a VF other than 1 (notes/assumptions/8.md). -/
theorem second_draw_clause_contradicts_clear_screen_law {History : Type}
    (vf : History → Framebuffer → Byte) (hclear : ∀ h, vf h Framebuffer.clear = 0) :
    ∃ fb, ∀ h, vf h (drawSprite fb [0x80#8] 0 0).fb ≠ 1 := by
  refine ⟨Framebuffer.toggle Framebuffer.clear 0 0, fun h => ?_⟩
  have e : (drawSprite (Framebuffer.toggle Framebuffer.clear 0 0) [0x80#8] 0 0).fb =
      Framebuffer.clear := by decide
  rw [e, hclear]
  decide

end Sys2Proof.Machine
end

