-- ==== Sys2Proof/Laws/Decode.lean ====
section
/-! SUPPORT. The fields of an opcode and the words of the formats as numbers, and what each field
reads from each format. A proof about encoding cites these and closes with omega. -/

namespace Sys2Proof

/-! ### Fields as digits of the opcode's number -/

theorem fieldT_toNat (op : Word) : (fieldT op).toNat = op.toNat / 4096 := by
  simp only [fieldT, BitVec.extractLsb'_toNat, Nat.shiftRight_eq_div_pow]
  omega

theorem fieldX_val (op : Word) : (fieldX op).val = op.toNat / 256 % 16 := by
  show (op.extractLsb' 8 4).toNat = _
  simp only [BitVec.extractLsb'_toNat, Nat.shiftRight_eq_div_pow]

theorem fieldY_val (op : Word) : (fieldY op).val = op.toNat / 16 % 16 := by
  show (op.extractLsb' 4 4).toNat = _
  simp only [BitVec.extractLsb'_toNat, Nat.shiftRight_eq_div_pow]

theorem fieldN_val (op : Word) : (fieldN op).val = op.toNat % 16 := by
  show (op.extractLsb' 0 4).toNat = _
  simp only [BitVec.extractLsb'_toNat, Nat.shiftRight_zero]

theorem fieldNN_toNat (op : Word) : (fieldNN op).toNat = op.toNat % 256 := by
  simp only [fieldNN, BitVec.extractLsb'_toNat, Nat.shiftRight_zero]

theorem fieldNNN_toNat (op : Word) : (fieldNNN op).toNat = op.toNat % 4096 := by
  simp only [fieldNNN, BitVec.extractLsb'_toNat, Nat.shiftRight_zero]

@[simp] theorem nibble_toNat (r : Fin 16) : (nibble r).toNat = r.val := rfl

/-! ### Words of the formats as numbers -/

/-- A concatenation as a number: the left part counts in units of the right part's size. -/
theorem toNat_append_eq {v w : Nat} (a : BitVec v) (b : BitVec w) :
    (a ++ b).toNat = a.toNat * 2 ^ w + b.toNat := by
  rw [BitVec.toNat_append, ← Nat.shiftLeft_add_eq_or_of_lt b.isLt, Nat.shiftLeft_eq]

theorem encFA_toNat (t : BitVec 4) (nnn : Addr12) :
    (encFA t nnn).toNat = t.toNat * 4096 + nnn.toNat :=
  toNat_append_eq t nnn

theorem encFXB_toNat (t : BitVec 4) (x : Reg) (nn : Byte) :
    (encFXB t x nn).toNat = t.toNat * 4096 + x.val * 256 + nn.toNat := by
  have h : (encFXB t x nn).toNat = (t ++ nibble x).toNat * 2 ^ 8 + nn.toNat :=
    toNat_append_eq (t ++ nibble x) nn
  rw [h, toNat_append_eq, nibble_toNat]
  omega

theorem encFXY_toNat (t : BitVec 4) (x y : Reg) (sub : BitVec 4) :
    (encFXY t x y sub).toNat = t.toNat * 4096 + x.val * 256 + y.val * 16 + sub.toNat := by
  have h : (encFXY t x y sub).toNat = (t ++ nibble x ++ nibble y).toNat * 2 ^ 4 + sub.toNat :=
    toNat_append_eq (t ++ nibble x ++ nibble y) sub
  rw [h, toNat_append_eq (t ++ nibble x) (nibble y), toNat_append_eq, nibble_toNat, nibble_toNat]
  omega

theorem encFXYN_toNat (t : BitVec 4) (x y : Reg) (n : RowCount) :
    (encFXYN t x y n).toNat = t.toNat * 4096 + x.val * 256 + y.val * 16 + n.val :=
  encFXY_toNat t x y (nibble n)

theorem encFXS_toNat (t : BitVec 4) (x : Reg) (sub : Byte) :
    (encFXS t x sub).toNat = t.toNat * 4096 + x.val * 256 + sub.toNat :=
  encFXB_toNat t x sub

/-! ### What the fields of each format are -/

section
variable (t : BitVec 4) (x y : Reg) (n : RowCount) (nn : Byte) (nnn : Addr12) (sub : BitVec 4)

@[simp] theorem fieldT_encFA : fieldT (encFA t nnn) = t := by
  apply BitVec.eq_of_toNat_eq
  rw [fieldT_toNat, encFA_toNat]
  omega

@[simp] theorem fieldNNN_encFA : fieldNNN (encFA t nnn) = nnn := by
  apply BitVec.eq_of_toNat_eq
  rw [fieldNNN_toNat, encFA_toNat]
  omega

@[simp] theorem fieldT_encFXB : fieldT (encFXB t x nn) = t := by
  apply BitVec.eq_of_toNat_eq
  rw [fieldT_toNat, encFXB_toNat]
  omega

@[simp] theorem fieldX_encFXB : fieldX (encFXB t x nn) = x := by
  apply Fin.ext
  rw [fieldX_val, encFXB_toNat]
  omega

@[simp] theorem fieldNN_encFXB : fieldNN (encFXB t x nn) = nn := by
  apply BitVec.eq_of_toNat_eq
  rw [fieldNN_toNat, encFXB_toNat]
  omega

@[simp] theorem fieldT_encFXY : fieldT (encFXY t x y sub) = t := by
  apply BitVec.eq_of_toNat_eq
  rw [fieldT_toNat, encFXY_toNat]
  omega

@[simp] theorem fieldX_encFXY : fieldX (encFXY t x y sub) = x := by
  apply Fin.ext
  rw [fieldX_val, encFXY_toNat]
  omega

@[simp] theorem fieldY_encFXY : fieldY (encFXY t x y sub) = y := by
  apply Fin.ext
  rw [fieldY_val, encFXY_toNat]
  omega

@[simp] theorem fieldN_encFXY : (fieldN (encFXY t x y sub)).val = sub.toNat := by
  rw [fieldN_val, encFXY_toNat]
  omega

@[simp] theorem fieldT_encFXYN : fieldT (encFXYN t x y n) = t := fieldT_encFXY t x y (nibble n)

@[simp] theorem fieldX_encFXYN : fieldX (encFXYN t x y n) = x := fieldX_encFXY t x y (nibble n)

@[simp] theorem fieldY_encFXYN : fieldY (encFXYN t x y n) = y := fieldY_encFXY t x y (nibble n)

@[simp] theorem fieldN_encFXYN : fieldN (encFXYN t x y n) = n :=
  Fin.ext (fieldN_encFXY t x y (nibble n))

@[simp] theorem fieldT_encFXS : fieldT (encFXS t x nn) = t := fieldT_encFXB t x nn

@[simp] theorem fieldX_encFXS : fieldX (encFXS t x nn) = x := fieldX_encFXB t x nn

@[simp] theorem fieldNN_encFXS : fieldNN (encFXS t x nn) = nn := fieldNN_encFXB t x nn

end

/-! ### Bytes of an opcode -/

/-- An opcode's two bytes form the opcode again (R60). -/
@[simp] theorem opcodeOf_bytes (op : Word) :
    opcodeOf (op.extractLsb' 8 8) (op.extractLsb' 0 8) = op := by
  apply BitVec.eq_of_toNat_eq
  show (op.extractLsb' 8 8 ++ op.extractLsb' 0 8).toNat = _
  rw [toNat_append_eq]
  simp only [BitVec.extractLsb'_toNat, Nat.shiftRight_eq_div_pow]
  omega

end Sys2Proof
end

