-- ==== Sys2Proof/Laws/Frame.lean ====
section
/-! SUPPORT. The frame of every update, and how frames combine. -/

namespace Sys2Proof

open Machine

theorem Part.same_refl (s : State) (p : Part) : p.Same s s := by cases p <;> rfl

theorem Part.Same.trans {s t u : State} {p : Part} (h : p.Same s t) (k : p.Same t u) : p.Same s u := by
  cases p <;> exact Eq.trans k h

theorem ChangesOnly.refl (P : Part → Prop) (s : State) : ChangesOnly P s s :=
  fun p _ => Part.same_refl s p

/-- A frame may be widened. -/
theorem ChangesOnly.mono {P Q : Part → Prop} {s t : State} (h : ChangesOnly P s t)
    (hPQ : ∀ p, P p → Q p) : ChangesOnly Q s t :=
  fun p hp => h p (fun hP => hp (hPQ p hP))

/-- Two updates with one frame keep it. -/
theorem ChangesOnly.trans {P : Part → Prop} {s t u : State} (h : ChangesOnly P s t)
    (k : ChangesOnly P t u) : ChangesOnly P s u :=
  fun p hp => Part.Same.trans (h p hp) (k p hp)

/-- Addresses in different cells are different parts. -/
theorem Part.byteAt_inj {a b : Word} : Part.byteAt a = Part.byteAt b ↔ cellOf a = cellOf b := by
  simp [Part.byteAt, cellOf, Fin.ext_iff]

/-- The address a cell is read through names that cell. -/
theorem cellOf_ofNat (a : Fin 4096) : cellOf (BitVec.ofNat 16 a.val) = a.val := by
  simp only [cellOf, BitVec.toNat_ofNat]
  omega

/-! ### One frame per update -/

section
variable (s : State)

theorem changesOnly_setReg (r : Reg) (b : Byte) : ChangesOnly (· = .reg r) s (s.setReg r b) := by
  intro p hp
  cases p <;> simp_all [Part.Same]

theorem changesOnly_setI (w : Word) : ChangesOnly (· = .I) s (s.setI w) := by
  intro p hp
  cases p <;> simp_all [Part.Same]

theorem changesOnly_setPc (w : Word) : ChangesOnly (· = .pc) s (s.setPc w) := by
  intro p hp
  cases p <;> simp_all [Part.Same]

theorem changesOnly_skipIf (c : Bool) : ChangesOnly (· = .pc) s (s.skipIf c) := by
  rw [State.skipIf_eq]
  exact changesOnly_setPc s _

theorem changesOnly_writeByte (a : Word) (b : Byte) :
    ChangesOnly (· = Part.byteAt a) s (s.writeByte a b) := by
  intro p hp
  cases p with
  | cell z =>
    have h : cellOf (BitVec.ofNat 16 z.val) ≠ cellOf a := by
      rw [cellOf_ofNat]
      intro e
      exact hp (by simp [Part.byteAt, Fin.ext_iff, e, cellOf])
    simp [Part.Same, h]
  | _ => simp [Part.Same]

theorem changesOnly_push (w : Word) :
    ChangesOnly (· ∈ [.SP, .entry (stackIndex s.SP)]) s (s.push w) := by
  intro p hp
  cases p with
  | entry j =>
    have : (stackIndex s.SP).val ≠ j.val := fun e => hp (by simp [Fin.ext_iff, e])
    simp [Part.Same, this]
  | _ => simp_all [Part.Same]

theorem changesOnly_popPc : ChangesOnly (· ∈ [.pc, .SP]) s s.popPc := by
  intro p hp
  cases p <;> simp_all [Part.Same]

theorem changesOnly_setKeyLevel (k : Key) (d : Bool) :
    ChangesOnly (· = .key k) s (s.setKeyLevel k d) := by
  intro p hp
  cases p <;> simp_all [Part.Same]

theorem changesOnly_setDT (b : Byte) : ChangesOnly (· = .DT) s (s.setDT b) := by
  intro p hp
  cases p <;> simp_all [Part.Same]

theorem changesOnly_setST (b : Byte) : ChangesOnly (· = .ST) s (s.setST b) := by
  intro p hp
  cases p <;> simp_all [Part.Same]

theorem changesOnly_beginWait (x : Reg) :
    ChangesOnly (· ∈ [.waiting, .waitReg]) s (s.beginWait x) := by
  intro p hp
  cases p <;> simp_all [Part.Same]

theorem changesOnly_endWait (k : Key) :
    ChangesOnly (· ∈ [.waiting, .reg s.waitReg]) s (s.endWait k) := by
  intro p hp
  cases p with
  | reg r => simp_all [Part.Same]
  | pixel x y => exact State.pixel_endWait s k x y
  | key q => exact State.key_endWait s k q
  | cell a => exact State.readByte_endWait s k _
  | _ => simp_all [Part.Same]

theorem changesOnly_countDraw : ChangesOnly (· = .draws) s s.countDraw := by
  intro p hp
  cases p <;> simp_all [Part.Same]

theorem changesOnly_emit (e : Event) : ChangesOnly (· = .events) s (s.emit e) := by
  intro p hp
  cases p <;> simp_all [Part.Same]

theorem changesOnly_clearEvents : ChangesOnly (· = .events) s s.clearEvents := by
  intro p hp
  cases p <;> simp_all [Part.Same]

theorem changesOnly_setFB (fb : Framebuffer) :
    ChangesOnly (fun p => ∃ x y, p = .pixel x y) s (s.setFB fb) := by
  intro p hp
  cases p with
  | pixel x y => exact absurd ⟨x, y, rfl⟩ hp
  | _ => rfl

theorem changesOnly_setRegAndFlag (x : Reg) (b : Byte) (c : Bool) :
    ChangesOnly (· ∈ [.reg x, .reg VF]) s (s.setRegAndFlag x b c) :=
  ((changesOnly_setReg s x b).mono (by simp +contextual)).trans
    ((changesOnly_setReg _ VF (flagByte c)).mono (by simp +contextual))

theorem changesOnly_timerTick : ChangesOnly (· ∈ [.DT, .ST, .events]) s s.timerTick := by
  rw [State.timerTick_eq]
  intro p hp
  cases p <;> first | rfl | simp at hp

/-- A list of writes changes only the cells it writes. -/
theorem changesOnly_writeBytes (ws : List (Word × Byte)) :
    ChangesOnly (fun p => ∃ w ∈ ws, p = Part.byteAt w.1) s (s.writeBytes ws) := by
  induction ws generalizing s with
  | nil => exact ChangesOnly.refl _ s
  | cons w ws ih =>
    exact ((changesOnly_writeByte s w.1 w.2).mono (fun p hp => ⟨w, by simp, hp⟩)).trans
      ((ih _).mono (fun p ⟨v, hv, hp⟩ => ⟨v, by simp [hv], hp⟩))

/-- A list of register writes changes only the registers it writes. -/
theorem changesOnly_setRegs (ws : List (Reg × Byte)) :
    ChangesOnly (fun p => ∃ w ∈ ws, p = .reg w.1) s (s.setRegs ws) := by
  induction ws generalizing s with
  | nil => exact ChangesOnly.refl _ s
  | cons w ws ih =>
    exact ((changesOnly_setReg s w.1 w.2).mono (fun p hp => ⟨w, by simp, hp⟩)).trans
      ((ih _).mono (fun p ⟨v, hv, hp⟩ => ⟨v, by simp [hv], hp⟩))

end

end Sys2Proof
end

