-- ==== Sys2Proof/Laws/PerInstr.lean ====
section
/-! SUPPORT. One lemma per instruction: its encoding lies in its row of spec/opcode_table.json, that
is, the encoded word under the row's mask is the row's match. -/

namespace Sys2Proof

/-- The mask and the match of the instruction's row of spec/opcode_table.json. -/
def tableRow : Instr → Word × Word
  | .sys _ => (0xF000#16, 0x0000#16)
  | .cls => (0xFFFF#16, 0x00E0#16)
  | .ret => (0xFFFF#16, 0x00EE#16)
  | .jp _ => (0xF000#16, 0x1000#16)
  | .call _ => (0xF000#16, 0x2000#16)
  | .seB _ _ => (0xF000#16, 0x3000#16)
  | .sneB _ _ => (0xF000#16, 0x4000#16)
  | .seR _ _ => (0xF00F#16, 0x5000#16)
  | .ldB _ _ => (0xF000#16, 0x6000#16)
  | .addB _ _ => (0xF000#16, 0x7000#16)
  | .ldR _ _ => (0xF00F#16, 0x8000#16)
  | .orR _ _ => (0xF00F#16, 0x8001#16)
  | .andR _ _ => (0xF00F#16, 0x8002#16)
  | .xorR _ _ => (0xF00F#16, 0x8003#16)
  | .addR _ _ => (0xF00F#16, 0x8004#16)
  | .sub _ _ => (0xF00F#16, 0x8005#16)
  | .shr _ _ => (0xF00F#16, 0x8006#16)
  | .subn _ _ => (0xF00F#16, 0x8007#16)
  | .shl _ _ => (0xF00F#16, 0x800E#16)
  | .sneR _ _ => (0xF00F#16, 0x9000#16)
  | .ldI _ => (0xF000#16, 0xA000#16)
  | .jpV0 _ => (0xF000#16, 0xB000#16)
  | .rnd _ _ => (0xF000#16, 0xC000#16)
  | .drw _ _ _ => (0xF000#16, 0xD000#16)
  | .skp _ => (0xF0FF#16, 0xE09E#16)
  | .sknp _ => (0xF0FF#16, 0xE0A1#16)
  | .ldVDT _ => (0xF0FF#16, 0xF007#16)
  | .ldVK _ => (0xF0FF#16, 0xF00A#16)
  | .ldDT _ => (0xF0FF#16, 0xF015#16)
  | .ldST _ => (0xF0FF#16, 0xF018#16)
  | .addI _ => (0xF0FF#16, 0xF01E#16)
  | .ldF _ => (0xF0FF#16, 0xF029#16)
  | .ldB3 _ => (0xF0FF#16, 0xF033#16)
  | .stRegs _ => (0xF0FF#16, 0xF055#16)
  | .ldRegs _ => (0xF0FF#16, 0xF065#16)

/-- The encoded word under the row's mask is the row's match. -/
def Laws.TableRow.Statement (i : Instr) : Prop := encode i &&& (tableRow i).1 = (tableRow i).2

/-! ### What the masks leave of each format -/

/-- A mask acts on the two parts of a concatenation apart. -/
theorem append_and_append {v w : Nat} (a c : BitVec v) (b d : BitVec w) :
    (a ++ b) &&& (c ++ d) = (a &&& c) ++ (b &&& d) := by
  apply BitVec.eq_of_getLsbD_eq
  intro i hi
  simp only [BitVec.getLsbD_and, BitVec.getLsbD_append]
  split <;> simp

theorem and_15 (t : BitVec 4) : t &&& 15#4 = t := BitVec.and_allOnes

theorem and_255 (n : Byte) : n &&& 255#8 = n := BitVec.and_allOnes

theorem mask_FA (t : BitVec 4) (nnn : Addr12) : encFA t nnn &&& 0xF000#16 = encFA t 0 :=
  (append_and_append t 0xF#4 nnn 0#12).trans (by simp [encFA, and_15])

theorem mask_FXB (t : BitVec 4) (x : Reg) (nn : Byte) :
    encFXB t x nn &&& 0xF000#16 = encFXB t 0 0 :=
  (append_and_append (t ++ nibble x) (0xF#4 ++ 0#4) nn 0#8).trans
    (by rw [append_and_append, and_15]; simp [encFXB]; rfl)

theorem mask_FXS (t : BitVec 4) (x : Reg) (sub : Byte) :
    encFXS t x sub &&& 0xF0FF#16 = encFXS t 0 sub :=
  (append_and_append (t ++ nibble x) (0xF#4 ++ 0#4) sub 0xFF#8).trans
    (by rw [append_and_append, and_15, and_255]; simp [encFXS]; rfl)

theorem mask_FXY (t : BitVec 4) (x y : Reg) (sub : BitVec 4) :
    encFXY t x y sub &&& 0xF00F#16 = encFXY t 0 0 sub :=
  (append_and_append (t ++ nibble x ++ nibble y) (0xF#4 ++ 0#4 ++ 0#4) sub 0xF#4).trans
    (by rw [append_and_append, append_and_append, and_15, and_15]; simp [encFXY]; rfl)

theorem mask_FXYN (t : BitVec 4) (x y : Reg) (n : RowCount) :
    encFXYN t x y n &&& 0xF000#16 = encFXYN t 0 0 0 :=
  (append_and_append (t ++ nibble x ++ nibble y) (0xF#4 ++ 0#4 ++ 0#4) (nibble n) 0#4).trans
    (by rw [append_and_append, append_and_append, and_15]; simp [encFXYN]; rfl)

/-! ### The rows -/

theorem Laws.TableRow.sys (nnn : Addr12) : TableRow.Statement (.sys nnn) :=
  mask_FA _ _

theorem Laws.TableRow.cls : TableRow.Statement (.cls) :=
  rfl

theorem Laws.TableRow.ret : TableRow.Statement (.ret) :=
  rfl

theorem Laws.TableRow.jp (nnn : Addr12) : TableRow.Statement (.jp nnn) :=
  mask_FA _ _

theorem Laws.TableRow.call (nnn : Addr12) : TableRow.Statement (.call nnn) :=
  mask_FA _ _

theorem Laws.TableRow.seB (x : Reg) (nn : Byte) : TableRow.Statement (.seB x nn) :=
  mask_FXB _ _ _

theorem Laws.TableRow.sneB (x : Reg) (nn : Byte) : TableRow.Statement (.sneB x nn) :=
  mask_FXB _ _ _

theorem Laws.TableRow.seR (x y : Reg) : TableRow.Statement (.seR x y) :=
  mask_FXY _ _ _ _

theorem Laws.TableRow.ldB (x : Reg) (nn : Byte) : TableRow.Statement (.ldB x nn) :=
  mask_FXB _ _ _

theorem Laws.TableRow.addB (x : Reg) (nn : Byte) : TableRow.Statement (.addB x nn) :=
  mask_FXB _ _ _

theorem Laws.TableRow.ldR (x y : Reg) : TableRow.Statement (.ldR x y) :=
  mask_FXY _ _ _ _

theorem Laws.TableRow.orR (x y : Reg) : TableRow.Statement (.orR x y) :=
  mask_FXY _ _ _ _

theorem Laws.TableRow.andR (x y : Reg) : TableRow.Statement (.andR x y) :=
  mask_FXY _ _ _ _

theorem Laws.TableRow.xorR (x y : Reg) : TableRow.Statement (.xorR x y) :=
  mask_FXY _ _ _ _

theorem Laws.TableRow.addR (x y : Reg) : TableRow.Statement (.addR x y) :=
  mask_FXY _ _ _ _

theorem Laws.TableRow.sub (x y : Reg) : TableRow.Statement (.sub x y) :=
  mask_FXY _ _ _ _

theorem Laws.TableRow.shr (x y : Reg) : TableRow.Statement (.shr x y) :=
  mask_FXY _ _ _ _

theorem Laws.TableRow.subn (x y : Reg) : TableRow.Statement (.subn x y) :=
  mask_FXY _ _ _ _

theorem Laws.TableRow.shl (x y : Reg) : TableRow.Statement (.shl x y) :=
  mask_FXY _ _ _ _

theorem Laws.TableRow.sneR (x y : Reg) : TableRow.Statement (.sneR x y) :=
  mask_FXY _ _ _ _

theorem Laws.TableRow.ldI (nnn : Addr12) : TableRow.Statement (.ldI nnn) :=
  mask_FA _ _

theorem Laws.TableRow.jpV0 (nnn : Addr12) : TableRow.Statement (.jpV0 nnn) :=
  mask_FA _ _

theorem Laws.TableRow.rnd (x : Reg) (nn : Byte) : TableRow.Statement (.rnd x nn) :=
  mask_FXB _ _ _

theorem Laws.TableRow.drw (x y : Reg) (n : RowCount) : TableRow.Statement (.drw x y n) :=
  mask_FXYN _ _ _ _

theorem Laws.TableRow.skp (x : Reg) : TableRow.Statement (.skp x) :=
  mask_FXS _ _ _

theorem Laws.TableRow.sknp (x : Reg) : TableRow.Statement (.sknp x) :=
  mask_FXS _ _ _

theorem Laws.TableRow.ldVDT (x : Reg) : TableRow.Statement (.ldVDT x) :=
  mask_FXS _ _ _

theorem Laws.TableRow.ldVK (x : Reg) : TableRow.Statement (.ldVK x) :=
  mask_FXS _ _ _

theorem Laws.TableRow.ldDT (x : Reg) : TableRow.Statement (.ldDT x) :=
  mask_FXS _ _ _

theorem Laws.TableRow.ldST (x : Reg) : TableRow.Statement (.ldST x) :=
  mask_FXS _ _ _

theorem Laws.TableRow.addI (x : Reg) : TableRow.Statement (.addI x) :=
  mask_FXS _ _ _

theorem Laws.TableRow.ldF (x : Reg) : TableRow.Statement (.ldF x) :=
  mask_FXS _ _ _

theorem Laws.TableRow.ldB3 (x : Reg) : TableRow.Statement (.ldB3 x) :=
  mask_FXS _ _ _

theorem Laws.TableRow.stRegs (x : Reg) : TableRow.Statement (.stRegs x) :=
  mask_FXS _ _ _

theorem Laws.TableRow.ldRegs (x : Reg) : TableRow.Statement (.ldRegs x) :=
  mask_FXS _ _ _

end Sys2Proof
end

