-- ==== Sys2Proof/Laws/Step.lean ====
section
/-! SUPPORT. What a step can do, said once, and that placing an opcode makes the next step fetch it
(spec/40_step_engine.md R130 to R138). -/

namespace Sys2Proof.Machine

theorem endStep_eq_next {r : Result} {t : State} :
    endStep r = .next t ↔ ∃ u, r = .next u ∧ t = u.stepTick := by
  cases r <;> simp [endStep, eq_comm]

theorem endStep_eq_fault {r : Result} {e : Fault} : endStep r = .fault e ↔ r = .fault e := by
  cases r <;> simp [endStep]

theorem endStep_eq_refused {r : Result} {e : Refusal} : endStep r = .refused e ↔ r = .refused e := by
  cases r <;> simp [endStep]

/-- A step that completes either ticks in the wait sub-state or runs the fetched instruction. -/
theorem step_next_cases {s t : State} (h : step s = .next t) :
    s.initialized = true ∧
      ((s.waiting = true ∧ t = s.waitStep) ∨
       (s.waiting = false ∧ ∃ i u, decodeWord s.opcode = .ok i ∧
          exec i s.beginInstr = .next u ∧ t = u.stepTick)) := by
  unfold step at h
  split at h
  · simp [raise] at h
  · next hi =>
    refine ⟨by simpa using hi, ?_⟩
    split at h
    · next hw => exact .inl ⟨hw, by simpa [eq_comm] using h⟩
    · next hw =>
      refine .inr ⟨by simpa using hw, ?_⟩
      split at h
      · simp [raise] at h
      · next i hd =>
        obtain ⟨u, hu, ht⟩ := endStep_eq_next.1 h
        exact ⟨i, u, hd, hu, ht⟩

/-- A step in the wait sub-state (R137). -/
theorem step_waiting {s : State} (hi : s.initialized = true) (hw : s.waiting = true) :
    step s = .next s.waitStep := by
  simp [step, hi, hw]

/-- A step that fetches a valid opcode (R133, R136). -/
theorem step_decoded {s : State} {i : Instr} (hi : s.initialized = true) (hw : s.waiting = false)
    (hd : decodeWord s.opcode = .ok i) : step s = endStep (exec i s.beginInstr) := by
  simp [step, hi, hw, hd]

/-- A step that fetches an invalid opcode (R133). -/
theorem step_invalid {s : State} {e : InvalidOpcode} (hi : s.initialized = true)
    (hw : s.waiting = false) (hd : decodeWord s.opcode = .error e) :
    step s = .fault s.invalidOpcode := by
  simp [step, hi, hw, hd, raise]

/-- The fetched opcode as a number: the byte at `pc` counts 256 (R131). -/
theorem State.opcode_toNat (s : State) :
    s.opcode.toNat = (s.readByte s.pc).toNat * 256 + (s.readByte (s.pc + 1)).toNat :=
  toNat_append_eq _ _

/-- Consecutive addresses name different cells. -/
theorem cellOf_succ_ne (a : Word) : cellOf (a + 1) ≠ cellOf a := by
  simp only [cellOf, BitVec.toNat_add]
  have : (1 : Word).toNat = 1 := rfl
  omega

/-- The next step fetches the placed opcode. -/
theorem State.opcode_placeOpcode (s : State) (op : Word) : (s.placeOpcode op).opcode = op := by
  have h1 : (s.placeOpcode op).readByte (s.placeOpcode op).pc = op.extractLsb' 8 8 := by
    show ((s.writeByte s.pc _).writeByte (s.pc + 1) _).readByte s.pc = _
    rw [State.readByte_writeByte, if_neg (cellOf_succ_ne s.pc).symm, State.readByte_writeByte,
      if_pos rfl]
  have h2 : (s.placeOpcode op).readByte ((s.placeOpcode op).pc + 1) = op.extractLsb' 0 8 := by
    show ((s.writeByte s.pc _).writeByte (s.pc + 1) _).readByte (s.pc + 1) = _
    rw [State.readByte_writeByte, if_pos rfl]
  rw [State.opcode, h1, h2, opcodeOf_bytes]

/-- The very next step runs the placed instruction. -/
theorem step_withFetchWord (s : State) (nbits w : Nat) {i : Instr}
    (hd : decodeWord (tableOpcode nbits w) = .ok i) :
    step (s.withFetchWord nbits w) = endStep (exec i (s.withFetchWord nbits w).beginInstr) :=
  step_decoded rfl rfl (by rw [State.withFetchWord, State.opcode_placeOpcode]; exact hd)

/-! ### Runs -/

/-- A run whose first step completes goes on from the next state. -/
theorem core_run_succ {s t : State} (k : Nat) (h : step s = .next t) :
    core.run (k + 1) s = core.run k t := by
  have hc : core.step s = .next t := h
  simp only [Host.Core.run, hc]

/-- A run extended by one step. -/
theorem core_run_extend {k : Nat} {s t u : State} (h : core.run k s = .next t)
    (hs : step t = .next u) : core.run (k + 1) s = .next u := by
  induction k generalizing s with
  | zero =>
    cases h
    exact core_run_succ 0 hs
  | succ k ih =>
    cases hc : core.step s with
    | next v =>
      have e : ∀ j : Nat, core.run (j + 1) s = core.run j v := fun j => core_run_succ j hc
      rw [e] at h ⊢
      exact ih h
    | fault r => simp only [Host.Core.run, hc, reduceCtorEq] at h
    | refused r => simp only [Host.Core.run, hc, reduceCtorEq] at h

end Sys2Proof.Machine
end

