-- ==== Sys2Proof/Tests/Slice0.lean ====
section
/-! SUPPORT. The model's own tests. Expected values come from the spec: its encodings
(spec/30_encoding.md R92 to R103), its vectors (spec/95_test_vectors.md; the vector's id stands in the
docstring) and its rules. The `witness_` theorems show that the hypotheses of each obligation can be
met together, at the boundary values of their ranges. -/

namespace Sys2Proof.Tests

open Machine

/-! ### Helpers -/

/-- What is to be seen of the state an operation leaves; nothing when it does not complete. -/
def seen {α : Type} (r : Result) (f : State → α) : Option α :=
  match r with
  | .next t => some (f t)
  | .fault _ => none
  | .refused _ => none

/-- The error an operation raises, if any. -/
def errorOf (r : Result) : Option Fault :=
  match r with
  | .next _ => none
  | .fault e => some e
  | .refused _ => none

/-- The start state of the vectors, with an opcode at `pc`. -/
def boot (op : Nat) : State := State.reset.withFetchWord 16 op

/-- The same block under the policy `Wrap`. -/
def wrapped (s : State) : State := { s with config := { s.config with stackErrorPolicy := .wrap } }

/-- The same block under the cadence `PerStep`. -/
def perStep (s : State) : State := { s with config := { s.config with timerCadence := .perStep } }

/-- The block at another `pc`, with an opcode there. -/
def bootAt (a : Word) (op : Nat) : State := (State.reset.setPc a).withFetchWord 16 op

/-- The block with `n` return addresses on the stack. -/
def withSP (s : State) (n : Byte) : State := { s with SP := n }

/-- The block with a stack entry. -/
def withEntry (s : State) (j : Fin 16) (w : Word) : State := { s with S := s.S.set j w }

/-- The block with one pixel on. -/
def lit (s : State) (x : Fin 64) (y : Fin 32) : State := { s with FB := Framebuffer.toggle s.FB x y }

/-- The block in the wait sub-state with a target register. -/
def asleep (s : State) (x : Reg) : State := s.beginWait x

/-- The number of pixels that are on. -/
def pixelsOn (s : State) : Nat := (s.FB.toList.map (fun row => row.toList.count true)).sum

/-! ### Well-formedness: each check refuses an ill-formed term (R96) -/

theorem test_wf_sys_not_cls : (Instr.sys 0x0E0).wf = false := by decide
theorem test_wf_sys_not_ret : (Instr.sys 0x0EE).wf = false := by decide
theorem test_wf_sys_neighbours :
    (Instr.sys 0x0E1).wf = true ∧ (Instr.sys 0x0EF).wf = true ∧ (Instr.sys 0x1E0).wf = true := by decide

/-! ### Decoding: for every constructor a word written bit by bit from its encoding (R92, R95 to R100) -/

theorem test_decode_sys : decodeWord 0b0000000100100011 = .ok (.sys 0x123) := by decide
theorem test_decode_cls : decodeWord 0b0000000011100000 = .ok (.cls) := by decide
theorem test_decode_ret : decodeWord 0b0000000011101110 = .ok (.ret) := by decide
theorem test_decode_jp : decodeWord 0b0001111100001010 = .ok (.jp 0xF0A) := by decide
theorem test_decode_call : decodeWord 0b0010000000000001 = .ok (.call 0x001) := by decide
theorem test_decode_seB : decodeWord 0b0011101001000010 = .ok (.seB 10 0x42) := by decide
theorem test_decode_sneB : decodeWord 0b0100000110000000 = .ok (.sneB 1 0x80) := by decide
theorem test_decode_seR : decodeWord 0b0101000100100000 = .ok (.seR 1 2) := by decide
theorem test_decode_ldB : decodeWord 0b0110111111111110 = .ok (.ldB 15 0xFE) := by decide
theorem test_decode_addB : decodeWord 0b0111001100000001 = .ok (.addB 3 0x01) := by decide
theorem test_decode_ldR : decodeWord 0b1000000100100000 = .ok (.ldR 1 2) := by decide
theorem test_decode_orR : decodeWord 0b1000100000010001 = .ok (.orR 8 1) := by decide
theorem test_decode_andR : decodeWord 0b1000000110000010 = .ok (.andR 1 8) := by decide
theorem test_decode_xorR : decodeWord 0b1000000100100011 = .ok (.xorR 1 2) := by decide
theorem test_decode_addR : decodeWord 0b1000111100010100 = .ok (.addR 15 1) := by decide
theorem test_decode_sub : decodeWord 0b1000000111110101 = .ok (.sub 1 15) := by decide
theorem test_decode_shr : decodeWord 0b1000001101000110 = .ok (.shr 3 4) := by decide
theorem test_decode_subn : decodeWord 0b1000010101100111 = .ok (.subn 5 6) := by decide
theorem test_decode_shl : decodeWord 0b1000000100101110 = .ok (.shl 1 2) := by decide
theorem test_decode_sneR : decodeWord 0b1001011100000000 = .ok (.sneR 7 0) := by decide
theorem test_decode_ldI : decodeWord 0b1010001100000000 = .ok (.ldI 0x300) := by decide
theorem test_decode_jpV0 : decodeWord 0b1011001000000001 = .ok (.jpV0 0x201) := by decide
theorem test_decode_rnd : decodeWord 0b1100001100001111 = .ok (.rnd 3 0x0F) := by decide
theorem test_decode_drw : decodeWord 0b1101101010110101 = .ok (.drw 10 11 5) := by decide
theorem test_decode_skp : decodeWord 0b1110010110011110 = .ok (.skp 5) := by decide
theorem test_decode_sknp : decodeWord 0b1110010110100001 = .ok (.sknp 5) := by decide
theorem test_decode_ldVDT : decodeWord 0b1111001100000111 = .ok (.ldVDT 3) := by decide
theorem test_decode_ldVK : decodeWord 0b1111010100001010 = .ok (.ldVK 5) := by decide
theorem test_decode_ldDT : decodeWord 0b1111000100010101 = .ok (.ldDT 1) := by decide
theorem test_decode_ldST : decodeWord 0b1111100000011000 = .ok (.ldST 8) := by decide
theorem test_decode_addI : decodeWord 0b1111001000011110 = .ok (.addI 2) := by decide
theorem test_decode_ldF : decodeWord 0b1111010000101001 = .ok (.ldF 4) := by decide
theorem test_decode_ldB3 : decodeWord 0b1111000000110011 = .ok (.ldB3 0) := by decide
theorem test_decode_stRegs : decodeWord 0b1111001001010101 = .ok (.stRegs 2) := by decide
theorem test_decode_ldRegs : decodeWord 0b1111111101100101 = .ok (.ldRegs 15) := by decide

/-- The table's numbering and the byte order (R60, R90): the high byte is fetched first. -/
theorem test_decode_bytes : decodeBytes [0x81, 0x24, 0x00] = .ok (.addR 1 2, [0x00]) ∧
    decodeTableWord 16 0x8124 = some (.addR 1 2) ∧ encodeBytes (.addR 1 2) = [0x81, 0x24] := by decide

/-- One byte is no opcode. -/
theorem test_decode_truncated : decodeBytes [0x81] = .error .truncated := by decide

/-- IV1. -/
theorem test_invalid_IV1 : decodeWord 0x5121 = .error .lowNibbleOf5 ∧
    errorOf (step (boot 0x5121)) = some (.invalidOpcode 0x5121 0x200 0x5) := by decide
/-- IV2. -/
theorem test_invalid_IV2 : decodeWord 0x8008 = .error .lowNibbleOf8 ∧
    errorOf (step (boot 0x8008)) = some (.invalidOpcode 0x8008 0x200 0x8) := by decide
/-- IV3. -/
theorem test_invalid_IV3 : decodeWord 0x800F = .error .lowNibbleOf8 ∧
    errorOf (step (boot 0x800F)) = some (.invalidOpcode 0x800F 0x200 0x8) := by decide
/-- IV4. -/
theorem test_invalid_IV4 : decodeWord 0x912F = .error .lowNibbleOf9 ∧
    errorOf (step (boot 0x912F)) = some (.invalidOpcode 0x912F 0x200 0x9) := by decide
/-- IV5. -/
theorem test_invalid_IV5 : decodeWord 0xE100 = .error .lowByteOfE ∧
    errorOf (step (boot 0xE100)) = some (.invalidOpcode 0xE100 0x200 0xE) := by decide
/-- IV6. -/
theorem test_invalid_IV6 : decodeWord 0xE19F = .error .lowByteOfE ∧
    errorOf (step (boot 0xE19F)) = some (.invalidOpcode 0xE19F 0x200 0xE) := by decide
/-- IV7. -/
theorem test_invalid_IV7 : decodeWord 0xF000 = .error .lowByteOfF ∧
    errorOf (step (boot 0xF000)) = some (.invalidOpcode 0xF000 0x200 0xF) := by decide
/-- IV8. -/
theorem test_invalid_IV8 : decodeWord 0xF090 = .error .lowByteOfF ∧
    errorOf (step (boot 0xF090)) = some (.invalidOpcode 0xF090 0x200 0xF) := by decide
/-- IV9. -/
theorem test_invalid_IV9 : decodeWord 0xFFFF = .error .lowByteOfF ∧
    errorOf (step (boot 0xFFFF)) = some (.invalidOpcode 0xFFFF 0x200 0xF) := by decide

/-! ### One step of each instruction -/

/-- CF1. -/
theorem test_sys :
    seen (step (boot 0x0123)) (fun t => (t.pc, t.events)) = some (0x202, []) := by decide

/-- CF4. -/
theorem test_cls :
    seen (step (lit (lit (boot 0x00E0) 0 0) 63 31))
      (fun t => (t.pc, pixelsOn t, t.events)) =
      some (0x202, 0, [.displayChanged]) := by decide

/-- CF6. -/
theorem test_ret :
    seen (step (withEntry (withSP (boot 0x00EE) 16) 15 0x0ABC))
      (fun t => (t.pc, t.SP)) =
      some (0x0ABC, 15) := by decide

/-- CF8. -/
theorem test_ret_wrap :
    seen (step (wrapped (boot 0x00EE))) (fun t => (t.pc, t.SP)) = some (0, 255) := by decide

/-- CF10. -/
theorem test_jp :
    seen (step (boot 0x1FFF)) (fun t => (t.pc, t.SP)) = some (0x0FFF, 0) := by decide

/-- CF13. -/
theorem test_call :
    seen (step (withSP (boot 0x2400) 15))
      (fun t => (t.pc, t.SP, t.S[15])) =
      some (0x400, 16, 0x202) := by decide

/-- CF15. -/
theorem test_call_wrap :
    seen (step (wrapped (withSP (boot 0x2400) 16)))
      (fun t => (t.pc, t.SP, t.S[0])) =
      some (0x400, 17, 0x202) := by decide

/-- CF18. -/
theorem test_jpV0 :
    seen (step ((boot 0xBFFF).setReg 0 0xFF)) (fun t => t.pc) = some (0x10FE) := by decide

/-- CF19. -/
theorem test_jpV0_only_v0 :
    seen (step ((boot 0xB201).setReg 1 0x50)) (fun t => t.pc) = some (0x201) := by decide

/-- SK1. -/
theorem test_seB :
    seen (step ((boot 0x3A42).setReg 10 0x42)) (fun t => t.pc) = some (0x204) := by decide

/-- SK10. -/
theorem test_seB_wraps :
    seen (step (bootAt 0xFFFC 0x3000)) (fun t => t.pc) = some (0) := by decide

/-- SK3. -/
theorem test_sneB_not_taken :
    seen (step ((boot 0x4A42).setReg 10 0x42)) (fun t => t.pc) = some (0x202) := by decide

/-- SK4. -/
theorem test_sneB :
    seen (step (boot 0x4A42)) (fun t => t.pc) = some (0x204) := by decide

/-- SK5. -/
theorem test_seR :
    seen (step (((boot 0x5120).setReg 1 7).setReg 2 7)) (fun t => t.pc) = some (0x204) := by decide

/-- SK6. -/
theorem test_seR_not_taken :
    seen (step (((boot 0x5120).setReg 1 7).setReg 2 8)) (fun t => t.pc) = some (0x202) := by decide

/-- SK8. -/
theorem test_sneR :
    seen (step (((boot 0x9120).setReg 1 7).setReg 2 8)) (fun t => t.pc) = some (0x204) := by decide

/-- SK9. -/
theorem test_sneR_not_taken :
    seen (step (((boot 0x9120).setReg 1 7).setReg 2 7)) (fun t => t.pc) = some (0x202) := by decide

/-- SK11. -/
theorem test_skp :
    seen (step (((boot 0xE59E).setReg 5 0x0A).setKeyLevel 10 true))
      (fun t => t.pc) =
      some (0x204) := by decide

/-- SK15. -/
theorem test_skp_index :
    errorOf (step ((boot 0xE59E).setReg 5 0x10)) = some (.invalidKeyIndex 0x10) := by decide

/-- SK14. -/
theorem test_sknp :
    seen (step (((boot 0xE5A1).setReg 5 0x0A).setKeyLevel 10 true))
      (fun t => t.pc) =
      some (0x202) := by decide

/-- SK16. -/
theorem test_sknp_index :
    errorOf (step ((boot 0xE5A1).setReg 5 0xFF)) = some (.invalidKeyIndex 0xFF) := by decide

/-- AL2. -/
theorem test_ldB :
    seen (step (boot 0x6FFF)) (fun t => (t.reg VF, t.pc)) = some (0xFF, 0x202) := by decide

/-- AL3. -/
theorem test_addB :
    seen (step ((boot 0x7301).setReg 3 0xFF))
      (fun t => (t.reg 3, t.reg VF, t.pc)) =
      some (0, 0, 0x202) := by decide

/-- AL5. -/
theorem test_addB_vf :
    seen (step ((boot 0x7F01).setReg 15 0xFF)) (fun t => t.reg VF) = some (0) := by decide

/-- AL6. -/
theorem test_ldR :
    seen (step ((boot 0x8120).setReg 2 0x99))
      (fun t => (t.reg 1, t.reg 2)) =
      some (0x99, 0x99) := by decide

/-- AL7. -/
theorem test_orR :
    seen (step ((((boot 0x8121).setReg 1 0xF0).setReg 2 0x0F).setReg 15 0x55))
      (fun t => (t.reg 1, t.reg VF)) =
      some (0xFF, 0x55) := by decide

/-- AL8. -/
theorem test_andR :
    seen (step ((((boot 0x8122).setReg 1 0xF0).setReg 2 0x3C).setReg 15 0x55))
      (fun t => (t.reg 1, t.reg VF)) =
      some (0x30, 0x55) := by decide

/-- AL9. -/
theorem test_xorR :
    seen (step ((((boot 0x8123).setReg 1 0xF0).setReg 2 0x3C).setReg 15 0x55))
      (fun t => (t.reg 1, t.reg VF)) =
      some (0xCC, 0x55) := by decide

/-- AL15. -/
theorem test_addR_vf :
    seen (step (((boot 0x8F14).setReg 15 1).setReg 1 0xFF))
      (fun t => t.reg VF) =
      some (1) := by decide

/-- AL16. -/
theorem test_addR_from_vf :
    seen (step (((boot 0x81F4).setReg 1 0x10).setReg 15 1))
      (fun t => (t.reg 1, t.reg VF)) =
      some (0x11, 0) := by decide

/-- AL17. -/
theorem test_sub_borrow :
    seen (step (((boot 0x8125).setReg 1 3).setReg 2 5))
      (fun t => (t.reg 1, t.reg VF)) =
      some (0xFE, 0) := by decide

/-- AL18. -/
theorem test_sub_equal :
    seen (step (((boot 0x8125).setReg 1 5).setReg 2 5))
      (fun t => (t.reg 1, t.reg VF)) =
      some (0, 1) := by decide

/-- AL21. -/
theorem test_shr :
    seen (step (((boot 0x8126).setReg 1 0xAA).setReg 2 5))
      (fun t => (t.reg 1, t.reg 2, t.reg VF)) =
      some (2, 5, 1) := by decide

/-- AL23. -/
theorem test_shr_vf :
    seen (step ((boot 0x8FF6).setReg 15 2)) (fun t => t.reg VF) = some (0) := by decide

/-- AL24. -/
theorem test_subn :
    seen (step (((boot 0x8127).setReg 1 3).setReg 2 5))
      (fun t => (t.reg 1, t.reg VF)) =
      some (2, 1) := by decide

/-- AL25. -/
theorem test_subn_borrow :
    seen (step (((boot 0x8127).setReg 1 5).setReg 2 3))
      (fun t => (t.reg 1, t.reg VF)) =
      some (0xFE, 0) := by decide

/-- AL27. -/
theorem test_shl :
    seen (step ((boot 0x812E).setReg 2 0x81))
      (fun t => (t.reg 1, t.reg VF)) =
      some (2, 1) := by decide

/-- AL29. -/
theorem test_shl_vf :
    seen (step ((boot 0x8F2E).setReg 2 0x40)) (fun t => t.reg VF) = some (0) := by decide

/-- IM1. -/
theorem test_ldI :
    seen (step ((boot 0xA300).setI 0xFFFF)) (fun t => t.I) = some (0x300) := by decide

/-- IM3. -/
theorem test_addI :
    seen (step (((boot 0xF21E).setI 0x0FFF).setReg 2 1))
      (fun t => (t.I, t.reg VF)) =
      some (0x1000, 0) := by decide

/-- IM4. -/
theorem test_addI_wraps :
    seen (step (((boot 0xF21E).setI 0xFFFF).setReg 2 1)) (fun t => t.I) = some (0) := by decide

/-- IM6. -/
theorem test_ldF :
    seen (step ((boot 0xF429).setReg 4 0x0F)) (fun t => t.I) = some (0x4B) := by decide

/-- IM8. -/
theorem test_ldF_unmasked :
    seen (step ((boot 0xF429).setReg 4 0xFF)) (fun t => t.I) = some (0x4FB) := by decide

/-- IM9. -/
theorem test_ldB3 :
    seen (step (((boot 0xF033).setReg 0 0xFE).setI 0x300))
      (fun t => (t.readByte 0x300, t.readByte 0x301, t.readByte 0x302, t.I)) =
      some (2, 5, 4, 0x300) := by decide

/-- IM12. -/
theorem test_ldB3_wraps :
    seen (step (((boot 0xF033).setReg 0 0x7B).setI 0xFFE))
      (fun t => (t.readByte 0xFFE, t.readByte 0xFFF, t.readByte 0, t.I)) =
      some (1, 2, 3, 0xFFE) := by decide

/-- IM15. -/
theorem test_stRegs_wraps :
    seen (step (((((boot 0xF255).setReg 0 1).setReg 1 2).setReg 2 3).setI 0xFFF))
      (fun t => (t.readByte 0xFFF, t.readByte 0, t.readByte 1, t.readByte 2, t.I)) =
      some (1, 2, 3, 0x90, 0x1002) := by decide

/-- IM14. -/
theorem test_stRegs_all :
    seen (step ((((boot 0xFF55).setReg 14 0x0E).setReg 15 0x0F).setI 0x300))
      (fun t => (t.readByte 0x30E, t.readByte 0x30F, t.readByte 0x310, t.I)) =
      some (0x0E, 0x0F, 0, 0x310) := by decide

/-- IM17. -/
theorem test_ldRegs :
    seen (step ((((boot 0xF065).setI 0x300).setReg 1 0x77).writeBytes [(0x300, 0x42), (0x301, 0x43)]))
      (fun t => (t.reg 0, t.reg 1, t.I)) =
      some (0x42, 0x77, 0x301) := by decide

/-- IM19. -/
theorem test_ldRegs_wraps :
    seen (step (((boot 0xF165).setI 0xFFFF).writeByte 0xFFF 0x12))
      (fun t => (t.reg 0, t.reg 1, t.I)) =
      some (0x12, 0xF0, 1) := by decide

/-- DS1. -/
theorem test_drw_font :
    seen (step (boot 0xD005))
      (fun t => (pixelsOn t, t.reg VF, t.events)) =
      some (14, 0, [.displayChanged]) := by decide

/-- DS3. -/
theorem test_drw_wraps :
    seen (step (((((boot 0xD011).setI 0x300).setReg 0 0x3E).setReg 1 0x1F).writeByte 0x300 0xFF))
      (fun t => (pixelsOn t, t.pixel 62 31, t.pixel 63 31, t.pixel 0 31, t.pixel 5 31, t.pixel 6 31)) =
      some (8, true, true, true, true, false) := by decide

/-- TK2. -/
theorem test_ldVDT :
    seen (step (perStep ((boot 0xF307).setDT 60)))
      (fun t => (t.reg 3, t.DT)) =
      some (0x3C, 59) := by decide

/-- TK4. -/
theorem test_ldDT :
    seen (step (perStep ((boot 0xF015).setReg 0 5))) (fun t => t.DT) = some (4) := by decide

/-- TK5. -/
theorem test_ldST :
    seen (step ((boot 0xF018).setReg 0 0x1E))
      (fun t => (t.ST, t.events)) =
      some (30, []) := by decide

/-- TK6. -/
theorem test_ldST_beeps :
    seen (step (perStep ((boot 0xF018).setReg 0 0x1E)))
      (fun t => (t.ST, t.events)) =
      some (0, [.requestBeep 30]) := by decide

/-- TK9. -/
theorem test_ldVK :
    seen (step ((boot 0xF30A).setKeyLevel 4 true))
      (fun t => (t.pc, t.waiting, t.waitReg, t.reg 3)) =
      some (0x202, true, 3, 0) := by decide

/-- TK10. -/
theorem test_waiting :
    seen (step (perStep ((asleep (boot 0x6A10) 3).setDT 7)))
      (fun t => (t.pc, t.DT, t.reg 10, t.waiting)) =
      some (0x200, 6, 0, true) := by decide

/-- AL31, AL32: NN = 0 gives 0 and NN = FF gives the raw draw, for every draw. -/
theorem test_rnd : seen (step (boot 0xC3FF)) (fun t => (t.reg 3, t.draws)) =
    some (Config.rnd 0 &&& 0xFF, 1) := rfl

/-- DS7: (0,0) is cleared, and (1,0) is under a zero bit and stays. -/
theorem test_drw_collision :
    seen (execDrw 0 1 1 (lit (lit ((State.reset.setI 0x300).writeByte 0x300 0x80) 0 0) 1 0))
      (fun t => (t.reg VF, t.pixel 0 0, t.pixel 1 0)) = some (1, false, true) := by decide

/-- CF7, CF14. -/
theorem test_stack_errors :
    errorOf (step (boot 0x00EE)) = some (.stackUnderflow 0x200) ∧
    errorOf (step (withSP (boot 0x2400) 16)) = some (.stackOverflow 0x200 16) := by decide

/-! ### Host operations -/

/-- H1 to H4. -/
theorem test_guard :
    (perform State.powerOn .step).reply = .error (.notInitialized .step) ∧
    (perform State.powerOn (.load [0x01])).reply = .error (.notInitialized .load) ∧
    (perform State.powerOn (.setKey 1 true)).reply = .error (.notInitialized .setKey) ∧
    (perform State.powerOn .tick).reply = .error (.notInitialized .tick) := by decide

/-- H6, H7. -/
theorem test_initialize :
    (perform State.powerOn .init).state = State.reset ∧
    (perform State.reset .init).reply = .error .alreadyInitialized := by decide

/-- W8, H8: the bytes land at 0x200 and the length is returned. -/
theorem test_load :
    (perform State.reset (.load [0x6A, 0x10])).reply = .size 2 ∧
    (perform State.reset (.load [0x6A, 0x10])).state.M = [(0x200, 0x6A), (0x201, 0x10)] := by decide

/-- H10: an empty ROM resets. -/
theorem test_load_empty :
    (perform (lit (State.reset.setReg 3 9) 0 0) (.load [])).state = State.reset := by decide

/-- H11 to H14. -/
theorem test_set_key :
    (perform State.reset (.setKey 16 true)).reply = .error (.invalidKeyIndex 16) ∧
    (perform State.reset (.setKey 3 true)).events = [.keyPressed 3] ∧
    (perform (State.reset.setKeyLevel 3 true) (.setKey 3 true)).events = [] ∧
    (perform (State.reset.setKeyLevel 3 true) (.setKey 3 false)).events = [.keyReleased 3] := by decide

/-- H15, H16. -/
theorem test_set_key_wait :
    seen (hostSetKey 7 true (asleep State.reset 1)) (fun t => (t.reg 1, t.waiting, t.key 7)) =
      some (7, false, true) ∧
    seen (hostSetKey 7 false (asleep (State.reset.setKeyLevel 7 true) 1))
      (fun t => (t.reg 1, t.waiting, t.key 7)) = some (0, true, false) := by decide

/-- H17, H18, H20. -/
theorem test_tick :
    seen (hostTick (State.reset.setDT 1)) (fun t => t.DT) = some 0 ∧
    seen (hostTick (State.reset.setST 5)) (fun t => (t.ST, t.events)) =
      some (0, [.requestBeep 5]) ∧
    seen (hostTick (asleep (State.reset.setDT 3) 1)) (fun t => (t.DT, t.waiting)) =
      some (2, true) := by decide

/-- R354: under `PerStep` the host has no tick. -/
theorem test_tick_absent : (perform (perStep State.reset) .tick).reply = .absent .noTickOperation := by
  decide

/-- R46: glyphs 0 and F of the default font. -/
theorem test_font :
    (List.range 5).map (fun a => State.reset.readByte (BitVec.ofNat 16 a)) =
      [0xF0, 0x90, 0x90, 0x90, 0xF0] ∧
    (List.range 5).map (fun a => State.reset.readByte (BitVec.ofNat 16 (75 + a))) =
      [0xF0, 0x80, 0xF0, 0x80, 0x80] := by decide

/-! ### Witnesses: the hypotheses of each obligation, met together

Where a hypothesis says that an operation answers a next state, the witness names the operation's own
answer through `after`. -/

/-- The state an instruction leaves; the state itself where it does not complete. -/
def after (i : Instr) (s : State) : State := (seen (exec i s) id).getD s

/-- The state a step leaves; the state itself where it does not complete. -/
def stepped (s : State) : State := (seen (step s) id).getD s

theorem witness_DecodeOfEncode : (Instr.drw 15 15 15).wf = true ∧ (Instr.sys 0x0E1).wf = true ∧
    (Instr.ldRegs 15).wf = true := by decide

theorem witness_EncodeOfDecode :
    decodeWord 0xDFFF#16 = .ok (.drw 15 15 15) ∧ decodeWord 0x00E1#16 = .ok (.sys 0x0E1) := by decide

/-- Both sides of each clause of the table, where the ranges begin and end. -/
theorem witness_InvalidOpcodes :
    decodeWord 0x5001#16 = .error .lowNibbleOf5 ∧ decodeWord 0x5FFF#16 = .error .lowNibbleOf5 ∧
    decodeWord 0x8008#16 = .error .lowNibbleOf8 ∧ decodeWord 0x8FFF#16 = .error .lowNibbleOf8 ∧
    decodeWord 0x9001#16 = .error .lowNibbleOf9 ∧ decodeWord 0x9FFF#16 = .error .lowNibbleOf9 ∧
    decodeWord 0xE000#16 = .error .lowByteOfE ∧ decodeWord 0xEFFF#16 = .error .lowByteOfE ∧
    decodeWord 0xF000#16 = .error .lowByteOfF ∧ decodeWord 0xFFFF#16 = .error .lowByteOfF := by decide

theorem witness_SysDoesNothing : (0x0E1 : Addr12) ≠ 0x0E0#12 ∧ (0x0E1 : Addr12) ≠ 0x0EE#12 := by decide

theorem witness_CallPushes_fault :
    (withSP State.reset 15).config.stackErrorPolicy = .fault ∧ (withSP State.reset 15).SP.toNat < 16 := by
  decide

theorem witness_CallPushes_full :
    (withSP State.reset 16).config.stackErrorPolicy = .fault ∧
    16 ≤ (withSP State.reset 16).SP.toNat := by decide

theorem witness_CallPushes_wrap :
    (wrapped (withSP State.reset 255)).config.stackErrorPolicy = .wrap := by decide

theorem witness_RetPops_fault :
    (withSP State.reset 16).config.stackErrorPolicy = .fault ∧
    0 < (withSP State.reset 16).SP.toNat ∧ (withSP State.reset 16).SP.toNat ≤ 16 ∧
    0 < (withSP State.reset 1).SP.toNat ∧ (withSP State.reset 1).SP.toNat ≤ 16 := by decide

theorem witness_RetPops_empty :
    State.reset.config.stackErrorPolicy = .fault ∧ State.reset.SP.toNat = 0 := by decide

theorem witness_RetPops_wrap : (wrapped State.reset).config.stackErrorPolicy = .wrap := by decide

theorem witness_ReturnUndoesCall :
    let t := after (.call 0x400) State.reset
    exec (.call 0x400) State.reset = .next t ∧ t.SP = t.SP ∧ t.S = t.S ∧
      exec .ret t = .next (after .ret t) := ⟨rfl, rfl, rfl, rfl⟩

theorem witness_SkipOnRegisters : (1 : BitVec 4) ≠ 0 ∧ (15 : BitVec 4) ≠ 0 := by decide

theorem witness_SkipOnKey :
    ((State.reset.setReg 5 15).reg 5).toNat < 16 ∧ 15 < ((State.reset.setReg 5 16).reg 5).toNat := by
  decide

/-- For AddRegistersWithCarry, SubtractWithNoBorrowFlag and ShiftsOfVy. -/
theorem witness_DestinationIsNotVF : (14 : Reg) ≠ VF := by decide

theorem witness_RegistersStored : (0 : Reg) ≤ 0 ∧ (15 : Reg) ≤ 15 := by decide

theorem witness_LoadAfterStore : ∃ t w,
    exec (.stRegs 15) State.reset = .next t ∧ (t.setI 0).M = t.M ∧ (t.setI 0).config = t.config ∧
      (t.setI 0).I = State.reset.I ∧ exec (.ldRegs 15) (t.setI 0) = .next w ∧ (15 : Reg) ≤ 15 := by
  obtain ⟨t, h⟩ : ∃ t, exec (.stRegs 15) State.reset = .next t := ⟨_, rfl⟩
  exact ⟨t, _, h, rfl, rfl, rfl, rfl, by decide⟩

theorem witness_HighBitsOfI (i : Instr) (hi : i ∈ [.ldB3 0, .stRegs 0, .ldRegs 0, .drw 0 0 1]) :
    (0xFFFF : Word).toNat % 4096 = (State.reset.setI 0x0FFF).I.toNat % 4096 ∧
    exec i (State.reset.setI 0x0FFF) = .next (after i (State.reset.setI 0x0FFF)) ∧
    exec i ((State.reset.setI 0x0FFF).setI 0xFFFF) =
      .next (after i ((State.reset.setI 0x0FFF).setI 0xFFFF)) := by
  simp only [List.mem_cons, List.not_mem_nil, or_false] at hi
  rcases hi with rfl | rfl | rfl | rfl <;> exact ⟨rfl, rfl, rfl⟩

/-- A sprite of one bit at the corner of the screen. -/
def dot : State := (State.reset.setI 0x300).writeByte 0x300 0x80

theorem dot_covers_corner : SpriteCovers dot 0 1 1 0 0 := ⟨0, 0, by decide, by decide, by decide, rfl, rfl⟩

theorem witness_DrawToggles_covered : SpriteCovers dot 0 1 1 0 0 := dot_covers_corner

theorem witness_DrawToggles_uncovered : ¬ SpriteCovers dot 0 1 0 0 0 :=
  fun ⟨_, _, h, _⟩ => absurd h (Nat.not_lt_zero _)

theorem witness_DrawToggles_hit :
    ∃ px py, SpriteCovers (lit dot 0 0) 0 1 1 px py ∧ (lit dot 0 0).pixel px py = true :=
  ⟨0, 0, ⟨0, 0, by decide, by decide, by decide, rfl, rfl⟩, by decide⟩

theorem witness_DrawToggles_miss :
    ¬ ∃ px py, SpriteCovers (lit dot 0 0) 0 1 0 px py ∧ (lit dot 0 0).pixel px py = true :=
  fun ⟨_, _, ⟨_, _, h, _⟩, _⟩ => absurd h (Nat.not_lt_zero _)

/-- For DrawingTwiceRestoresScreen and SecondDrawAlwaysCollides. -/
theorem witness_DrawingTwice :
    let t := after (.drw 0 1 1) dot
    exec (.drw 0 1 1) dot = .next t ∧ t.FB = t.FB ∧ t.M = dot.M ∧ t.config = dot.config ∧
      t.I = dot.I ∧ t.reg 0 = dot.reg 0 ∧ t.reg 1 = dot.reg 1 ∧
      exec (.drw 0 1 1) t = .next (after (.drw 0 1 1) t) ∧ ∃ px py, SpriteCovers dot 0 1 1 px py :=
  ⟨rfl, rfl, rfl, rfl, rfl, rfl, rfl, rfl, 0, 0, dot_covers_corner⟩

theorem witness_SecondDrawOnClearScreen :
    let t := after (.drw 0 1 1) dot
    (∀ px py, dot.pixel px py = false) ∧ (∃ px py, SpriteCovers dot 0 1 1 px py) ∧
      exec (.drw 0 1 1) dot = .next t ∧ t.FB = t.FB ∧ t.M = dot.M ∧ t.config = dot.config ∧
      t.I = dot.I ∧ t.reg 0 = dot.reg 0 ∧ t.reg 1 = dot.reg 1 ∧
      exec (.drw 0 1 1) t = .next (after (.drw 0 1 1) t) :=
  ⟨fun px py => Framebuffer.pixel_clear px py, ⟨0, 0, dot_covers_corner⟩,
    rfl, rfl, rfl, rfl, rfl, rfl, rfl, rfl⟩

theorem witness_DrawOnClearScreen : (∀ px py, dot.pixel px py = false) ∧
    exec (.drw 0 1 1) dot = .next (after (.drw 0 1 1) dot) :=
  ⟨fun px py => Framebuffer.pixel_clear px py, rfl⟩

theorem witness_StepRuns_next :
    let s := boot 0x8124
    s.initialized = true ∧ s.waiting = false ∧
      decodeWord (s.readByte s.pc ++ s.readByte (s.pc + 1)) = .ok (.addR 1 2) ∧
      exec (.addR 1 2) { s with events := [], pc := s.pc + 2 } =
        .next (after (.addR 1 2) { s with events := [], pc := s.pc + 2 }) :=
  ⟨rfl, rfl, by decide, rfl⟩

theorem witness_StepRuns_fault :
    let s := boot 0x00EE
    s.initialized = true ∧ s.waiting = false ∧
      decodeWord (s.readByte s.pc ++ s.readByte (s.pc + 1)) = .ok .ret ∧
      exec .ret { s with events := [], pc := s.pc + 2 } = .fault (.stackUnderflow 0x200) :=
  ⟨rfl, rfl, by decide, rfl⟩

theorem witness_StepRuns_perStep : (perStep State.reset).config.timerCadence = .perStep := by decide

theorem witness_InvalidOpcodeRaised :
    let s := boot 0xFFFF
    s.initialized = true ∧ s.waiting = false ∧
      (0xFFFF : Word) = s.readByte s.pc ++ s.readByte (s.pc + 1) ∧ (0x200 : Word) = s.pc ∧
      (0xF : BitVec 4).toNat = (0xFFFF : Word).toNat / 4096 ∧
      decodeWord 0xFFFF = .error .lowByteOfF := by decide

theorem witness_WaitingStep_external :
    (asleep State.reset 3).initialized = true ∧ (asleep State.reset 3).waiting = true ∧
    (asleep State.reset 3).config.timerCadence = .external := by decide

theorem witness_WaitingStep_perStep :
    (perStep (asleep State.reset 3)).initialized = true ∧
    (perStep (asleep State.reset 3)).waiting = true ∧
    (perStep (asleep State.reset 3)).config.timerCadence = .perStep := by decide

theorem witness_InstructionErrors_none : ∀ e, ¬ Raises .cls State.reset e := fun _ h => nomatch h

theorem witness_InstructionErrors_each :
    Raises (.call 0) (withSP State.reset 16) (.stackOverflow (State.reset.pc - 2) 16) ∧
    Raises .ret State.reset (.stackUnderflow (State.reset.pc - 2)) ∧
    Raises (.skp 5) (State.reset.setReg 5 16) (.invalidKeyIndex 16) ∧
    Raises (.sknp 5) (State.reset.setReg 5 255) (.invalidKeyIndex 255) :=
  ⟨.overflow _ _ rfl (by decide), .underflow _ rfl rfl, .keyDown 5 _ (by decide),
    .keyUp 5 _ (by decide)⟩

/-- For EventsOfAStep and the first clause of PcAfterEachStep. -/
theorem witness_StepOfAnInstruction :
    step (boot 0x00E0) = .next (stepped (boot 0x00E0)) ∧ (boot 0x00E0).waiting = false ∧
    decodeWord (boot 0x00E0).opcode = .ok .cls := ⟨rfl, rfl, by decide⟩

theorem witness_PcAfterEachStep_waiting :
    step (asleep State.reset 3) = .next (stepped (asleep State.reset 3)) ∧
    (asleep State.reset 3).waiting = true := ⟨rfl, rfl⟩

/-- For PcAfterEachStep's last clause and ErrorsChangeNothing. -/
theorem witness_Errors :
    (perform (boot 0x00EE) .step).reply = .error (.stackUnderflow 0x200) ∧
    (perform State.reset .init).reply = .error .alreadyInitialized := by decide

theorem witness_RegistersWritten :
    exec (.ldRegs 3) State.reset = .next (after (.ldRegs 3) State.reset) ∧
    ¬ writesReg (.ldRegs 3) 4 := ⟨rfl, by unfold writesReg; decide⟩

/-- For OnlyStoresWriteMemory and EachPartHasItsWriters. -/
theorem witness_OneInstruction :
    exec .cls State.reset = .next (after .cls State.reset) ∧ (∀ x, Instr.cls ≠ .ldB3 x) ∧
    (∀ x, Instr.cls ≠ .stRegs x) ∧ (∀ nnn, Instr.cls ≠ .call nnn) ∧ Instr.cls ≠ .ret ∧
    isDisplay (.jp 0) = false ∧ (∀ x, Instr.cls ≠ .ldDT x) ∧ (∀ x, Instr.cls ≠ .ldST x) ∧
    (∀ x, Instr.cls ≠ .ldVK x) := by
  refine ⟨rfl, ?_⟩
  simp [isDisplay]

/-- For InitializeOnce and GuardBeforeInitialize. -/
theorem witness_Lifecycle :
    State.powerOn.initialized = false ∧ State.powerOn.config.timerCadence = .external ∧
    State.reset.initialized = true := by decide

theorem witness_LoadResets :
    State.reset.initialized = true ∧ 3584 < (List.replicate 3585 (0 : Byte)).length ∧
    (List.replicate 3584 (0 : Byte)).length ≤ 3584 ∧ ([] : List Byte).length ≤ 3584 := by
  simp only [List.length_replicate]
  decide

theorem witness_HostTick :
    State.reset.config.timerCadence = .external ∧ State.reset.initialized = true ∧
    State.powerOn.config.timerCadence = .external ∧ State.powerOn.initialized = false := by decide

theorem witness_SetKey_press :
    State.reset.initialized = true ∧ State.reset.key ⟨15, by decide⟩ = false ∧
    (asleep State.reset 3).waiting = true ∧ (asleep State.reset 3).key ⟨15, by decide⟩ = false ∧
    State.reset.waiting = false ∧ State.powerOn.initialized = false := by decide

theorem witness_SetKey_release_and_repeat :
    (State.reset.setKeyLevel 0 true).initialized = true ∧
    (State.reset.setKeyLevel 0 true).key ⟨0, by decide⟩ = true := by decide

theorem witness_SetKey_index : State.reset.initialized = true ∧ 15 < 16 := by decide

theorem witness_WaitEnds :
    (asleep State.reset 3).waiting = true ∧
    (perform (asleep State.reset 3) (.setKey 7 true)).state.waiting = false ∧
    (perform (asleep State.reset 3) (.load [])).state.waiting = false ∧
    (asleep State.powerOn 3).waiting = true ∧
    (perform (asleep State.powerOn 3) .init).state.waiting = false := by decide

theorem witness_InitializedIsNeverCleared : State.reset.initialized = true := by decide

theorem reset_is_safe : SafeState State.reset := ⟨by decide, fun _ => by decide⟩

theorem witness_StepKeepsInvariant :
    SafeState State.reset ∧ step State.reset = .next (stepped State.reset) := ⟨reset_is_safe, rfl⟩

theorem witness_HostOperationsKeepInvariant : SafeState (withSP (dot.setReg 3 9) 16) :=
  ⟨by decide, fun _ => by decide⟩

theorem witness_PartsDetermineState :
    SafeState dot ∧ ChangesOnly (fun _ => False) dot dot :=
  ⟨⟨by decide, fun _ => by decide⟩, ChangesOnly.refl _ _⟩

theorem witness_RunWithoutRom : (perStep (wrapped State.reset)).config.font = defaultFont ∧
    0 ≤ 1792 ∧ 1792 ≤ 1792 := ⟨rfl, by decide, by decide⟩

end Sys2Proof.Tests
end

/-! SUPPORT. What the instructions and the host operations can do to the state, said once: the
guarded instructions and the host operations inverted, the frame of every instruction, and what its
memory and its stack pointer become. -/

namespace Sys2Proof.Machine

/-! ### The guarded instructions, inverted -/

theorem exec_call_next {nnn : Addr12} {s t : State} (h : exec (.call nnn) s = .next t) :
    t = (s.push s.pc).setPc (addr16 nnn) ∧
      (s.config.stackErrorPolicy = .fault → s.SP.toNat < 16) := by
  simp only [exec, execCall, raise] at h
  split at h
  · split at h
    · cases h
    · next hsp => cases h; exact ⟨rfl, fun _ => by omega⟩
  · next hp => cases h; exact ⟨rfl, fun hf => by simp [hf] at hp⟩

theorem exec_ret_next {s t : State} (h : exec .ret s = .next t) :
    t = s.popPc ∧ (s.config.stackErrorPolicy = .fault → s.SP ≠ 0) := by
  simp only [exec, execRet, raise] at h
  split at h
  · split at h
    · cases h
    · next hsp => cases h; exact ⟨rfl, fun _ => hsp⟩
  · next hp => cases h; exact ⟨rfl, fun hf => by simp [hf] at hp⟩

/-- A key operand is the value itself, as a key (R184, R185). -/
theorem keyOperand_eq_some {v : Byte} {k : Key} (h : keyOperand v = some k) :
    v.toNat < 16 ∧ k = Fin.ofNat 16 v.toNat := by
  simp only [keyOperand] at h
  split at h
  · next hv => cases h; exact ⟨hv, Fin.ext (Nat.mod_eq_of_lt hv).symm⟩
  · cases h

theorem exec_skp_next {x : Reg} {s t : State} (h : exec (.skp x) s = .next t) :
    t = s.skipIf (s.key (Fin.ofNat 16 (s.reg x).toNat)) ∧ (s.reg x).toNat < 16 := by
  simp only [exec, execSkp, raise] at h
  split at h
  · next k hk =>
    obtain ⟨hlt, rfl⟩ := keyOperand_eq_some hk
    cases h
    exact ⟨rfl, hlt⟩
  · cases h

theorem exec_sknp_next {x : Reg} {s t : State} (h : exec (.sknp x) s = .next t) :
    t = s.skipIf (!s.key (Fin.ofNat 16 (s.reg x).toNat)) ∧ (s.reg x).toNat < 16 := by
  simp only [exec, execSknp, raise] at h
  split at h
  · next k hk =>
    obtain ⟨hlt, rfl⟩ := keyOperand_eq_some hk
    cases h
    exact ⟨rfl, hlt⟩
  · cases h

/-! ### The host operations, inverted -/

theorem hostInit_next {s t : State} (h : hostInit s = .next t) :
    s.initialized = false ∧ t = { s.componentReset with initialized := true } := by
  simp only [hostInit, raise] at h
  split at h
  · cases h
  · next hi => cases h; exact ⟨by simpa using hi, rfl⟩

theorem hostLoad_next {rom : List Byte} {s t : State} {n : Nat}
    (h : hostLoad rom s = .next (t, n)) :
    s.initialized = true ∧ rom.length ≤ romMax ∧ n = rom.length ∧
      t = s.componentReset.writeBytes (romStores rom) := by
  simp only [hostLoad] at h
  split at h
  · cases h
  · next hi =>
    split at h
    · cases h
    · next hl => cases h; exact ⟨by simpa using hi, by omega, rfl, rfl⟩

theorem hostTick_next {s t : State} (h : hostTick s = .next t) :
    s.config.timerCadence = .external ∧ s.initialized = true ∧ t = s.clearEvents.timerTick := by
  simp only [hostTick, raise] at h
  split at h
  · cases h
  · next hc =>
    split at h
    · cases h
    · next hi => cases h; exact ⟨hc, by simpa using hi, rfl⟩

theorem hostSetKey_next {k : Nat} {d : Bool} {s t : State} (h : hostSetKey k d s = .next t) :
    s.initialized = true ∧ ∃ hk : k < 16, t = s.clearEvents.keyEvent ⟨k, hk⟩ d := by
  simp only [hostSetKey, raise] at h
  split at h
  · cases h
  · next hi =>
    split at h
    · next hk => cases h; exact ⟨by simpa using hi, hk, rfl⟩
    · cases h

/-- An error leaves the state as it was (R330). -/
theorem respond_state_of_error {s : State} {r : Result} {e : Fault}
    (h : (respond s r).reply = .error e) : (respond s r).state = s := by
  cases r with
  | next t => cases h
  | fault | refused => rfl

/-- The state of a response is the old one, or the one the operation completed in. -/
theorem respond_state {P : State → Prop} {s : State} {r : Result} (hs : P s)
    (hr : ∀ t, r = .next t → P t) : P (respond s r).state := by
  cases r with
  | next t => exact hr t rfl
  | fault | refused => exact hs

theorem respondSize_state {P : State → Prop} {s : State}
    {r : Host.Outcome (State × Nat) Fault Refusal} (hs : P s)
    (hr : ∀ t n, r = .next (t, n) → P t) : P (respondSize s r).state := by
  cases r with
  | next p => exact hr p.1 p.2 rfl
  | fault | refused => exact hs

/-- What every call keeps, every sequence of calls keeps (R351). -/
theorem performAll_induction {P : State → Prop} (hP : ∀ s c, P s → P (perform s c).state)
    (calls : List HostOp) {s : State} (hs : P s) : P (performAll s calls) := by
  induction calls generalizing s with
  | nil => exact hs
  | cons c calls ih => exact ih (hP s c hs)

/-! ### Memory and registers after an operation -/

@[simp] theorem State.skipIf_M (s : State) (c : Bool) : (s.skipIf c).M = s.M := by
  rw [State.skipIf_eq]
  rfl

@[simp] theorem State.keyEvent_M (s : State) (k : Key) (d : Bool) : (s.keyEvent k d).M = s.M := by
  unfold State.keyEvent
  dsimp only
  split_ifs <;> rfl

/-- Memory after a list of writes depends on the cells the writes reach, not on the addresses (R63). -/
theorem State.writeBytes_M (s : State) (ws : List (Word × Byte)) :
    (s.writeBytes ws).M =
      (ws.map fun w => (cellOf w.1, w.2)).foldl
        (fun m c => Memory.write s.config.font m c.1 c.2) s.M := by
  induction ws generalizing s with
  | nil => rfl
  | cons w ws ih => exact ih (s.writeByte w.1 w.2)

/-- The registers after a list of writes depend on the registers before it and on the writes. -/
theorem State.setRegs_V (s : State) (ws : List (Reg × Byte)) :
    (s.setRegs ws).V = ws.foldl (fun v w => v.set w.1 w.2) s.V := by
  induction ws generalizing s with
  | nil => rfl
  | cons w ws ih => exact ih (s.setReg w.1 w.2)

/-- The instructions reach memory only through lists of byte writes. -/
theorem exec_memory {i : Instr} {s t : State} (h : exec i s = .next t) :
    ∃ ws, t.M = (s.writeBytes ws).M := by
  cases i with
  | ldB3 | stRegs => cases h; exact ⟨_, rfl⟩
  | ldRegs => cases h; exact ⟨[], State.setRegs_M s _⟩
  | call => obtain ⟨rfl, -⟩ := exec_call_next h; exact ⟨[], rfl⟩
  | ret => obtain ⟨rfl, -⟩ := exec_ret_next h; exact ⟨[], rfl⟩
  | seB | sneB | seR | sneR => cases h; exact ⟨[], State.skipIf_M s _⟩
  | skp => obtain ⟨rfl, -⟩ := exec_skp_next h; exact ⟨[], State.skipIf_M s _⟩
  | sknp => obtain ⟨rfl, -⟩ := exec_sknp_next h; exact ⟨[], State.skipIf_M s _⟩
  | _ => cases h; exact ⟨[], rfl⟩

end Sys2Proof.Machine

namespace Sys2Proof

open Machine

/-! ### More frames of updates -/

/-- A frame of one part lies in every frame that has the part. -/
theorem ChangesOnly.of_eq {P : Part → Prop} {q : Part} {s t : State}
    (h : ChangesOnly (· = q) s t) (hq : P q) : ChangesOnly P s t :=
  h.mono (fun _ hp => hp ▸ hq)

theorem changesOnly_setFlag (s : State) (c : Bool) : ChangesOnly (· = .reg VF) s (s.setFlag c) :=
  changesOnly_setReg s VF (flagByte c)

theorem changesOnly_stepTick (s : State) : ChangesOnly (· ∈ [.DT, .ST, .events]) s s.stepTick := by
  rw [State.stepTick_eq]
  split
  · exact changesOnly_timerTick s
  · exact .refl _ s

theorem changesOnly_waitStep (s : State) : ChangesOnly (· ∈ [.DT, .ST, .events]) s s.waitStep :=
  ((changesOnly_clearEvents s).of_eq (by simp)).trans (changesOnly_stepTick _)

/-- What a key's new level can do: the level, at most one event, and the end of a wait (R303, R344). -/
theorem changesOnly_keyEvent (s : State) (k : Key) (d : Bool) :
    ChangesOnly (· ∈ [.key k, .events, .waiting, .reg s.waitReg]) s (s.keyEvent k d) := by
  have hlevel : ChangesOnly (· ∈ [.key k, .events, .waiting, .reg s.waitReg]) s
      (s.setKeyLevel k d) := (changesOnly_setKeyLevel s k d).of_eq (by simp)
  have hemit (e : Event) := hlevel.trans ((changesOnly_emit _ e).of_eq (by simp))
  unfold State.keyEvent
  split
  · dsimp only
    split
    · exact (hemit _).trans ((changesOnly_endWait _ k).mono (by simp))
    · exact hemit _
  · split
    · exact hemit _
    · exact hlevel

/-! ### The frame of every instruction -/

/-- The instructions that set `pc` beyond the step's own advance (R24). -/
def isControl : Instr → Bool
  | .jp _ | .call _ | .jpV0 _ | .ret => true
  | .seB _ _ | .sneB _ _ | .seR _ _ | .sneR _ _ | .skp _ | .sknp _ => true
  | _ => false

/-- The instructions that write `I` (R26). -/
def writesI : Instr → Bool
  | .ldI _ | .addI _ | .ldF _ | .stRegs _ | .ldRegs _ => true
  | _ => false

/-- The writers of every part of the state among the instructions (R22 to R34, R64). -/
def Writes (i : Instr) : Part → Prop
  | .reg r => writesReg i r
  | .I => writesI i = true
  | .pc => isControl i = true
  | .SP => (∃ nnn, i = .call nnn) ∨ i = .ret
  | .entry _ => ∃ nnn, i = .call nnn
  | .DT => ∃ x, i = .ldDT x
  | .ST => ∃ x, i = .ldST x
  | .cell _ => (∃ x, i = .ldB3 x) ∨ ∃ x, i = .stRegs x
  | .pixel _ _ => isDisplay i = true
  | .waiting => ∃ x, i = .ldVK x
  | .waitReg => ∃ x, i = .ldVK x
  | .events => isDisplay i = true
  | .draws => ∃ x nn, i = .rnd x nn
  | .key _ => False
  | .initialized => False
  | .config => False

/-- An instruction that completes changes only the parts it is a writer of. -/
theorem exec_changesOnly {i : Instr} {s t : State} (h : exec i s = .next t) :
    ChangesOnly (Writes i) s t := by
  cases i with
  | sys => cases h; exact .refl _ _
  | cls =>
    cases h
    exact ((changesOnly_setFB s _).mono (by rintro _ ⟨x, y, rfl⟩; rfl)).trans
      ((changesOnly_emit _ _).of_eq rfl)
  | drw x y n =>
    cases h
    have hscreen : ChangesOnly (Writes (.drw x y n)) s (s.setFB (s.sprite x y n).fb) :=
      (changesOnly_setFB s _).mono (by rintro _ ⟨px, py, rfl⟩; rfl)
    have hflag (u : State) (c : Bool) : ChangesOnly (Writes (.drw x y n)) u (u.setFlag c) :=
      (changesOnly_setFlag u c).of_eq rfl
    exact (hscreen.trans (hflag _ _)).trans ((changesOnly_emit _ _).of_eq rfl)
  | jp | jpV0 => cases h; exact (changesOnly_setPc s _).of_eq rfl
  | call nnn =>
    obtain ⟨rfl, -⟩ := exec_call_next h
    exact ((changesOnly_push s s.pc).mono (by simp [Writes])).trans
      ((changesOnly_setPc _ _).of_eq rfl)
  | ret =>
    obtain ⟨rfl, -⟩ := exec_ret_next h
    exact (changesOnly_popPc s).mono (by simp [Writes, isControl])
  | seB | sneB | seR | sneR => cases h; exact (changesOnly_skipIf s _).of_eq rfl
  | skp => obtain ⟨rfl, -⟩ := exec_skp_next h; exact (changesOnly_skipIf s _).of_eq rfl
  | sknp => obtain ⟨rfl, -⟩ := exec_sknp_next h; exact (changesOnly_skipIf s _).of_eq rfl
  | ldB | addB | ldR | orR | andR | xorR | ldVDT =>
    cases h; exact (changesOnly_setReg s _ _).of_eq rfl
  | addR | sub | shr | subn | shl =>
    cases h; exact (changesOnly_setRegAndFlag s _ _ _).mono (by simp [Writes, writesReg])
  | rnd x nn =>
    cases h
    exact ((changesOnly_countDraw s).of_eq ⟨x, nn, rfl⟩).trans
      ((changesOnly_setReg _ x _).of_eq rfl)
  | ldVK x => cases h; exact (changesOnly_beginWait s x).mono (by simp [Writes])
  | ldDT x => cases h; exact (changesOnly_setDT s _).of_eq ⟨x, rfl⟩
  | ldST x => cases h; exact (changesOnly_setST s _).of_eq ⟨x, rfl⟩
  | ldI | addI | ldF => cases h; exact (changesOnly_setI s _).of_eq rfl
  | ldB3 x =>
    cases h
    exact (changesOnly_writeBytes s _).mono (by rintro _ ⟨w, -, rfl⟩; exact .inl ⟨x, rfl⟩)
  | stRegs x =>
    cases h
    exact ((changesOnly_writeBytes s _).mono
      (by rintro _ ⟨w, -, rfl⟩; exact .inr ⟨x, rfl⟩)).trans ((changesOnly_setI _ _).of_eq rfl)
  | ldRegs x =>
    cases h
    refine ((changesOnly_setRegs s _).mono ?_).trans ((changesOnly_setI _ _).of_eq rfl)
    rintro _ ⟨w, hw, rfl⟩
    obtain ⟨r, hr, rfl⟩ := List.mem_map.1 hw
    exact (mem_regsUpTo x r).1 hr

section ReadOff
variable {i : Instr} {s t : State} (h : exec i s = .next t)
include h

theorem exec_config : t.config = s.config := exec_changesOnly h .config id

theorem exec_initialized : t.initialized = s.initialized := exec_changesOnly h .initialized id

theorem exec_SP (hc : ∀ nnn, i ≠ .call nnn) (hr : i ≠ .ret) : t.SP = s.SP :=
  exec_changesOnly h .SP (by simp [Writes, hc, hr])

end ReadOff

/-! ### The invariant -/

/-- The invariant speaks of memory, `SP` and the parameters only. -/
theorem SafeState.of_eq {s t : State} (hs : SafeState s) (hM : t.M = s.M) (hSP : t.SP = s.SP)
    (hc : t.config = s.config) : SafeState t where
  memory := by rw [hM, hc]; exact hs.memory
  stack := by unfold StackInBounds; rw [hSP, hc]; exact hs.stack

theorem SafeState.of_empty {s : State} (hM : s.M = []) (hSP : s.SP = 0) : SafeState s where
  memory := by rw [hM]; exact Memory.wf_nil _
  stack := fun _ => by simp [hSP]

theorem SafeState.writeBytes {s : State} (hs : SafeState s) (ws : List (Word × Byte)) :
    SafeState (s.writeBytes ws) where
  memory := by rw [State.writeBytes_config]; exact s.wf_writeBytes ws hs.memory
  stack := by unfold StackInBounds; rw [State.writeBytes_config, State.writeBytes_SP]; exact hs.stack

theorem SafeState.timerTick {s : State} (hs : SafeState s) : SafeState s.timerTick := by
  rw [State.timerTick_eq]
  exact hs.of_eq rfl rfl rfl

theorem SafeState.stepTick {s : State} (hs : SafeState s) : SafeState s.stepTick := by
  rw [State.stepTick_eq]
  split
  · exact hs.timerTick
  · exact hs

/-- Every instruction keeps the stack pointer in its bounds (R28): under `Fault` the guards of 2NNN
and 00EE keep it there, and no other instruction moves it. -/
theorem exec_stackInBounds {i : Instr} {s t : State} (h : exec i s = .next t)
    (hs : StackInBounds s) : StackInBounds t := by
  intro hf
  rw [exec_config h] at hf
  have hle := hs hf
  by_cases hcall : ∃ nnn, i = .call nnn
  · obtain ⟨nnn, rfl⟩ := hcall
    obtain ⟨rfl, hguard⟩ := exec_call_next h
    have hlt := hguard hf
    change (s.SP + 1).toNat ≤ 16
    bv_omega
  by_cases hret : i = .ret
  · subst hret
    obtain ⟨rfl, hguard⟩ := exec_ret_next h
    have hne := hguard hf
    change (s.SP - 1).toNat ≤ 16
    bv_omega
  · rw [exec_SP h (fun nnn hi => hcall ⟨nnn, hi⟩) hret]
    exact hle

theorem exec_safeState {i : Instr} {s t : State} (h : exec i s = .next t) (hs : SafeState s) :
    SafeState t where
  memory := by
    obtain ⟨ws, hM⟩ := exec_memory h
    rw [hM, exec_config h]
    exact s.wf_writeBytes ws hs.memory
  stack := exec_stackInBounds h hs.stack

theorem step_safeState {s t : State} (hs : SafeState s) (h : step s = .next t) : SafeState t := by
  obtain ⟨-, ⟨-, rfl⟩ | ⟨-, i, u, -, hu, rfl⟩⟩ := step_next_cases h
  · have hclear : SafeState s.clearEvents := hs.of_eq rfl rfl rfl
    exact hclear.stepTick
  · have hbegin : SafeState s.beginInstr := hs.of_eq rfl rfl rfl
    exact (exec_safeState hu hbegin).stepTick

/-- Every call of the host keeps the invariant: the two that reset start again from an empty memory
list and an empty stack, and of the others only `step` reaches memory or `SP`. -/
theorem perform_safeState (s : State) (c : HostOp) (hs : SafeState s) :
    SafeState (perform s c).state := by
  cases c with
  | init =>
    refine respond_state hs fun t h => ?_
    obtain ⟨-, rfl⟩ := hostInit_next h
    exact .of_empty rfl rfl
  | load rom =>
    refine respondSize_state hs fun t n h => ?_
    obtain ⟨-, -, -, rfl⟩ := hostLoad_next h
    exact SafeState.writeBytes (.of_empty rfl rfl) _
  | step => exact respond_state hs fun t h => step_safeState hs h
  | tick =>
    refine respond_state hs fun t h => ?_
    obtain ⟨-, -, rfl⟩ := hostTick_next h
    have hclear : SafeState s.clearEvents := hs.of_eq rfl rfl rfl
    exact hclear.timerTick
  | setKey k d =>
    refine respond_state hs fun t h => ?_
    obtain ⟨-, hk, rfl⟩ := hostSetKey_next h
    have frame := changesOnly_keyEvent s.clearEvents ⟨k, hk⟩ d
    exact hs.of_eq (State.keyEvent_M _ _ _) (frame .SP (by simp)) (frame .config (by simp))
  | readFramebuffer => exact hs

/-- Settles O56, by what an instruction leaves in memory and in `SP`. -/
theorem stepKeepsInvariant : Obligations.StepKeepsInvariant :=
  fun _ _ hs h => step_safeState hs h

/-- Settles O57, by induction on the calls. -/
theorem hostOperationsKeepInvariant : Obligations.HostOperationsKeepInvariant :=
  fun calls _ hs => performAll_induction (P := SafeState) perform_safeState calls hs

/-- Settles O55: both states have an empty memory list and an empty stack. -/
theorem resetMeetsInvariant : Obligations.ResetMeetsInvariant :=
  ⟨.of_empty rfl rfl, .of_empty rfl rfl⟩

/-! ### The high bits of `I` -/

section HighBits
variable {s : State} {J : Word} (hJ : J.toNat % 4096 = s.I.toNat % 4096)
include hJ

/-- Bits 15 to 12 of `I` do not reach the cell of an effective address (R63, R246). -/
theorem cellOf_effAddr_setI (k : Nat) : cellOf ((s.setI J).effAddr k) = cellOf (s.effAddr k) := by
  rw [State.cellOf_effAddr, State.cellOf_effAddr, State.setI_I]
  omega

theorem readByte_effAddr_setI (k : Nat) :
    s.readByte ((s.setI J).effAddr k) = s.readByte (s.effAddr k) := by
  rw [State.readByte, cellOf_effAddr_setI hJ, State.readByte]

theorem sprite_setI (x y : Reg) (n : RowCount) : (s.setI J).sprite x y n = s.sprite x y n := by
  simp [State.sprite, State.spriteRows, readByte_effAddr_setI hJ]

theorem regLoads_setI (x : Reg) : (s.setI J).regLoads x = s.regLoads x := by
  simp [State.regLoads, readByte_effAddr_setI hJ]

theorem writeBytes_decimalStores_setI_M (x : Reg) :
    ((s.setI J).writeBytes ((s.setI J).decimalStores x)).M = (s.writeBytes (s.decimalStores x)).M := by
  simp [State.writeBytes_M, State.decimalStores, cellOf_effAddr_setI hJ]

theorem writeBytes_regStores_setI_M (x : Reg) :
    ((s.setI J).writeBytes ((s.setI J).regStores x)).M = (s.writeBytes (s.regStores x)).M := by
  simp [State.writeBytes_M, State.regStores, Function.comp_def, cellOf_effAddr_setI hJ]

end HighBits

/-- Settles O26: the cells, and so the bytes read and the lists of writes, are the same. -/
theorem highBitsOfIChangeNoAccess : Obligations.HighBitsOfIChangeNoAccess := by
  intro x y n s t u J i hi hJ ht hu
  simp only [List.mem_cons, List.not_mem_nil, or_false] at hi
  obtain rfl | rfl | rfl | rfl := hi <;> cases ht <;> cases hu
  · exact ⟨writeBytes_decimalStores_setI_M hJ x, by simp, by simp⟩
  · exact ⟨writeBytes_regStores_setI_M hJ x, by simp, by simp⟩
  · exact ⟨by simp, by simp [State.setRegs_V, regLoads_setI hJ], by simp⟩
  · rw [sprite_setI hJ]
    exact ⟨rfl, rfl, rfl⟩

/-! ### The program counter -/

/-- A skip moves `pc` from `a + 2` to `a + 4` when its condition holds (R24, R186). -/
theorem beginInstr_skipIf_pc (s : State) (c : Bool) :
    (s.beginInstr.skipIf c).pc = if c = true then s.pc + 4 else s.pc + 2 := by
  rw [State.skipIf_pc, State.beginInstr_pc, BitVec.add_assoc]
  rfl

/-- The `pc` an instruction fetched at `s.pc` leaves is the one of R24's table. -/
theorem exec_beginInstr_pc {i : Instr} {s u : State} (h : exec i s.beginInstr = .next u) :
    u.pc = pcAfter s.pc s i := by
  cases i with
  | jp | jpV0 => cases h; rfl
  | call => obtain ⟨rfl, -⟩ := exec_call_next h; rfl
  | ret => obtain ⟨rfl, -⟩ := exec_ret_next h; rfl
  | seB | sneB | seR | sneR => cases h; simp [beginInstr_skipIf_pc, pcAfter]
  | skp =>
    obtain ⟨rfl, -⟩ := exec_skp_next h
    exact beginInstr_skipIf_pc s _
  | sknp x =>
    obtain ⟨rfl, -⟩ := exec_sknp_next h
    rw [beginInstr_skipIf_pc, State.key_beginInstr, State.reg_beginInstr, pcAfter]
    cases s.key (Fin.ofNat 16 (s.reg x).toNat) <;> rfl
  | _ => exact exec_changesOnly h .pc (by simp [Writes, isControl])

/-- Settles O41: R24's table for the fetched instruction, the frame of the tick for the wait
sub-state, and R330 for an error. -/
theorem pcAfterEachStep : Obligations.PcAfterEachStep := by
  refine ⟨fun s t i h hw hd => ?_, fun s t h hw => ?_, fun s e h => ?_⟩
  · obtain ⟨-, ⟨hw', -⟩ | ⟨-, j, u, hj, hu, rfl⟩⟩ := step_next_cases h
    · simp [hw] at hw'
    · obtain rfl : i = j := by simpa [hd] using hj
      have htick : u.stepTick.pc = u.pc := changesOnly_stepTick u .pc (by simp)
      rw [htick, exec_beginInstr_pc hu]
  · obtain ⟨-, ⟨-, rfl⟩ | ⟨hw', -⟩⟩ := step_next_cases h
    · exact changesOnly_waitStep s .pc (by simp)
    · simp [hw] at hw'
  · exact congrArg State.pc (respond_state_of_error h)

/-! ### The writers of the parts -/

/-- Settles O42: the register parts of the frame of every instruction. -/
theorem registersWrittenByEachInstruction : Obligations.RegistersWrittenByEachInstruction :=
  fun _ _ _ r h hr => exec_changesOnly h (.reg r) hr

/-- Settles O44: the other parts of the frame of every instruction; a stack, a screen or a keypad is
unchanged when each of its entries is. -/
theorem eachPartHasItsWriters : Obligations.EachPartHasItsWriters := by
  intro i s t h
  have frame := exec_changesOnly h
  refine ⟨fun hc => ?_, exec_SP h, fun hd => ?_, fun hx => ?_, fun hx => ?_, fun hx => ?_, ?_,
    exec_initialized h, exec_config h⟩
  · exact Vector.ext fun j hj => frame (.entry ⟨j, hj⟩) (by simp [Writes, hc])
  · exact Framebuffer.ext_pixel fun x y => frame (.pixel x y) (by simp [Writes, hd])
  · exact frame .DT (by simp [Writes, hx])
  · exact frame .ST (by simp [Writes, hx])
  · exact ⟨frame .waiting (by simp [Writes, hx]), frame .waitReg (by simp [Writes, hx])⟩
  · exact Vector.ext fun k hk => frame (.key ⟨k, hk⟩) id

/-! ### The lifecycle guard and the parameters -/

/-- The parameters stay, and the lifecycle guard stays set (R31, R36). -/
def KeepsLifecycle (s t : State) : Prop :=
  t.config = s.config ∧ (s.initialized = true → t.initialized = true)

theorem KeepsLifecycle.refl (s : State) : KeepsLifecycle s s := ⟨rfl, id⟩

theorem KeepsLifecycle.trans {s t u : State} (h : KeepsLifecycle s t) (k : KeepsLifecycle t u) :
    KeepsLifecycle s u :=
  ⟨k.1.trans h.1, k.2 ∘ h.2⟩

theorem ChangesOnly.keepsLifecycle {P : Part → Prop} {s t : State} (h : ChangesOnly P s t)
    (hc : ¬ P .config) (hi : ¬ P .initialized) : KeepsLifecycle s t :=
  ⟨h .config hc, Eq.trans (h .initialized hi)⟩

theorem step_keepsLifecycle {s t : State} (h : step s = .next t) : KeepsLifecycle s t := by
  obtain ⟨-, ⟨-, rfl⟩ | ⟨-, i, u, -, hu, rfl⟩⟩ := step_next_cases h
  · exact (changesOnly_waitStep s).keepsLifecycle (by simp) (by simp)
  · have hexec : KeepsLifecycle s u := (exec_changesOnly hu).keepsLifecycle id id
    exact hexec.trans ((changesOnly_stepTick u).keepsLifecycle (by simp) (by simp))

theorem perform_keepsLifecycle (s : State) (c : HostOp) :
    KeepsLifecycle s (perform s c).state := by
  have hs := KeepsLifecycle.refl s
  cases c with
  | init =>
    refine respond_state hs fun t h => ?_
    obtain ⟨-, rfl⟩ := hostInit_next h
    exact ⟨rfl, fun _ => rfl⟩
  | load rom =>
    refine respondSize_state hs fun t n h => ?_
    obtain ⟨hi, -, -, rfl⟩ := hostLoad_next h
    exact ⟨State.writeBytes_config _ _, fun _ => (State.writeBytes_initialized _ _).trans hi⟩
  | step => exact respond_state hs fun t h => step_keepsLifecycle h
  | tick =>
    refine respond_state hs fun t h => ?_
    obtain ⟨-, -, rfl⟩ := hostTick_next h
    exact (changesOnly_timerTick s.clearEvents).keepsLifecycle (by simp) (by simp)
  | setKey k d =>
    refine respond_state hs fun t h => ?_
    obtain ⟨-, hk, rfl⟩ := hostSetKey_next h
    exact (changesOnly_keyEvent s.clearEvents ⟨k, hk⟩ d).keepsLifecycle (by simp) (by simp)
  | readFramebuffer => exact hs

/-- Settles O54, by induction on the calls. -/
theorem initializedIsNeverCleared : Obligations.InitializedIsNeverCleared := fun s calls =>
  performAll_induction (P := KeepsLifecycle s)
    (fun t c ht => ht.trans (perform_keepsLifecycle t c)) calls (KeepsLifecycle.refl s)

end Sys2Proof

namespace Sys2Proof

open Machine

/-! ### The bytes of memory -/

/-- The part an address names is unchanged exactly when the address reads as before: a read reaches
the cell only (R63). -/
theorem Part.same_byteAt {s t : State} {a : Word} :
    (Part.byteAt a).Same s t ↔ t.readByte a = s.readByte a := by
  have hcell : cellOf (BitVec.ofNat 16 (Fin.ofNat 4096 a.toNat).val) = cellOf a := cellOf_ofNat _
  simp only [Part.byteAt, Part.Same, State.readByte, hcell]

/-- Settles O43: a memory cell is in the frame of FX33 and FX55 only. -/
theorem onlyStoresWriteMemory : Obligations.OnlyStoresWriteMemory := by
  intro i s t h hdecimal hstore a
  have hcell : ¬ Writes i (.byteAt a) := by simp [Part.byteAt, Writes, hdecimal, hstore]
  exact Part.same_byteAt.1 (exec_changesOnly h _ hcell)

end Sys2Proof

namespace Sys2Proof

open Machine

/-! ### What the formats decode to -/

/-- A 0NNN word is SYS, but for the two words that are CLS and RET (R96). -/
theorem decode0_encFA {nnn : Addr12} (h : (Instr.sys nnn).wf = true) :
    decode0 (encFA 0x0#4 nnn) = .sys nnn := by
  have hne : ∀ m ∈ sysExcluded, encFA 0x0#4 nnn ≠ encFA 0x0#4 m := by
    intro m hm heq
    obtain rfl : nnn = m := by simpa using congrArg fieldNNN heq
    simp [Instr.wf, hm] at h
  have hcls : encFA 0x0#4 nnn ≠ 0x00E0#16 := hne 0x0E0#12 (by decide)
  have hret : encFA 0x0#4 nnn ≠ 0x00EE#16 := hne 0x0EE#12 (by decide)
  rw [decode0, if_neg hcls, if_neg hret, fieldNNN_encFA]

theorem decodeWord_encFA_0 (nnn : Addr12) :
    decodeWord (encFA 0x0#4 nnn) = .ok (decode0 (encFA 0x0#4 nnn)) := by
  simp [decodeWord]

theorem decodeWord_encFXY_8 (x y : Reg) (sub : BitVec 4) :
    decodeWord (encFXY 0x8#4 x y sub) = decode8 x y sub.toNat := by
  simp [decodeWord]

theorem decodeWord_encFXS_E (x : Reg) (sub : Byte) :
    decodeWord (encFXS 0xE#4 x sub) = decodeE x sub.toNat := by
  simp [decodeWord]

theorem decodeWord_encFXS_F (x : Reg) (sub : Byte) :
    decodeWord (encFXS 0xF#4 x sub) = decodeF x sub.toNat := by
  simp [decodeWord]

theorem fieldN_encFXY_zero (t : BitVec 4) (x y : Reg) : fieldN (encFXY t x y 0x0#4) = 0 :=
  Fin.ext (fieldN_encFXY t x y 0x0#4)

/-- Settles O1, by the format of each instruction: the formats with a sub-opcode reach their
sub-decoder, which answers the instruction at once, and the others read their fields back. -/
theorem decodeOfEncode : Obligations.DecodeOfEncode := by
  intro i hwf
  cases i with
  | sys nnn => exact (decodeWord_encFA_0 nnn).trans (congrArg Except.ok (decode0_encFA hwf))
  | cls | ret => rfl
  | seR x y | sneR x y => simp [encode, decodeWord, fieldN_encFXY_zero]
  | ldR x y | orR x y | andR x y | xorR x y | addR x y | sub x y | shr x y | subn x y | shl x y =>
    exact decodeWord_encFXY_8 x y _
  | skp x | sknp x => exact decodeWord_encFXS_E x _
  | ldVDT x | ldVK x | ldDT x | ldST x | addI x | ldF x | ldB3 x | stRegs x | ldRegs x =>
    exact decodeWord_encFXS_F x _
  | jp | call | ldI | jpV0 | seB | sneB | ldB | addB | rnd | drw => simp [encode, decodeWord]

/-- Settles O4: each word is the encoding of its instruction, so O1 says what it decodes to. -/
theorem sampleWordsDecode : Obligations.SampleWordsDecode :=
  ⟨decodeOfEncode (.sys 0x123#12) rfl, decodeOfEncode (.call 0x206#12) rfl,
    decodeOfEncode (.seB 10 0x42#8) rfl, decodeOfEncode (.addR 1 2) rfl,
    decodeOfEncode (.ldRegs 2) rfl, decodeOfEncode (.drw 10 11 5) rfl,
    decodeOfEncode (.ldVK 5) rfl⟩

/-! ### An opcode is the word of its fields -/

section
variable {op : Word} {t : BitVec 4} (h : (fieldT op).toNat = t.toNat)
include h

theorem encFA_fields : encFA t (fieldNNN op) = op := by
  apply BitVec.eq_of_toNat_eq
  rw [encFA_toNat, ← h, fieldT_toNat, fieldNNN_toNat]
  omega

theorem encFXB_fields : encFXB t (fieldX op) (fieldNN op) = op := by
  apply BitVec.eq_of_toNat_eq
  rw [encFXB_toNat, ← h, fieldT_toNat, fieldX_val, fieldNN_toNat]
  omega

theorem encFXYN_fields : encFXYN t (fieldX op) (fieldY op) (fieldN op) = op := by
  apply BitVec.eq_of_toNat_eq
  rw [encFXYN_toNat, ← h, fieldT_toNat, fieldX_val, fieldY_val, fieldN_val]
  omega

theorem encFXY_fields {sub : BitVec 4} (hn : (fieldN op).val = sub.toNat) :
    encFXY t (fieldX op) (fieldY op) sub = op := by
  obtain rfl : nibble (fieldN op) = sub := BitVec.eq_of_toNat_eq hn
  exact encFXYN_fields h

theorem encFXS_fields {sub : Byte} (hnn : (fieldNN op).toNat = sub.toNat) :
    encFXS t (fieldX op) sub = op := by
  obtain rfl : fieldNN op = sub := BitVec.eq_of_toNat_eq hnn
  exact encFXB_fields h

end

/-! ### The sub-decoders, inverted

An instruction is encoded with the sub-opcode it was decoded from (R98 to R100). -/

theorem decode8_eq_ok {x y : Reg} {n : Nat} {i : Instr} (h : decode8 x y n = .ok i) :
    ∃ sub : BitVec 4, n = sub.toNat ∧ encode i = encFXY 0x8#4 x y sub ∧ i.wf = true := by
  unfold decode8 at h
  split at h <;> cases h <;> exact ⟨_, rfl, rfl, rfl⟩

theorem decodeE_eq_ok {x : Reg} {n : Nat} {i : Instr} (h : decodeE x n = .ok i) :
    ∃ sub : Byte, n = sub.toNat ∧ encode i = encFXS 0xE#4 x sub ∧ i.wf = true := by
  unfold decodeE at h
  split at h <;> cases h <;> exact ⟨_, rfl, rfl, rfl⟩

theorem decodeF_eq_ok {x : Reg} {n : Nat} {i : Instr} (h : decodeF x n = .ok i) :
    ∃ sub : Byte, n = sub.toNat ∧ encode i = encFXS 0xF#4 x sub ∧ i.wf = true := by
  unfold decodeF at h
  split at h <;> cases h <;> exact ⟨_, rfl, rfl, rfl⟩

/-- A top nibble with one valid low nibble (R97). -/
theorem ite_eq_ok {c : Prop} [Decidable c] {i j : Instr} {e : InvalidOpcode}
    (h : (if c then Except.ok j else .error e) = Except.ok i) : c ∧ j = i := by
  split at h
  · next hc => cases h; exact ⟨hc, rfl⟩
  · cases h

/-- The opcodes with top nibble 0 are the two of R96 and the SYS words beside them. -/
theorem encode_decode0 {op : Word} (h : (fieldT op).toNat = 0) :
    encode (decode0 op) = op ∧ (decode0 op).wf = true := by
  have hop : encFA 0x0#4 (fieldNNN op) = op := encFA_fields h
  by_cases hcls : op = 0x00E0#16
  · subst hcls; exact ⟨rfl, rfl⟩
  by_cases hret : op = 0x00EE#16
  · subst hret; exact ⟨rfl, rfl⟩
  have hE0 : fieldNNN op ≠ 0x0E0#12 := fun hf => hcls (by rw [← hop, hf]; rfl)
  have hEE : fieldNNN op ≠ 0x0EE#12 := fun hf => hret (by rw [← hop, hf]; rfl)
  rw [decode0, if_neg hcls, if_neg hret]
  exact ⟨hop, by simp [Instr.wf, sysExcluded, hE0, hEE]⟩

/-- Settles O2, by the top nibble: the operands and the sub-opcode are fields of the opcode, so the
format they fill is the opcode itself. -/
theorem encodeOfDecode : Obligations.EncodeOfDecode := by
  intro op i hd
  unfold decodeWord at hd
  match ht : (fieldT op).toNat, (fieldT op).isLt, hd with
  | 0x0, _, rfl => exact encode_decode0 ht
  | 0x1, _, rfl | 0x2, _, rfl | 0xA, _, rfl | 0xB, _, rfl => exact ⟨encFA_fields ht, rfl⟩
  | 0x3, _, rfl | 0x4, _, rfl | 0x6, _, rfl | 0x7, _, rfl | 0xC, _, rfl =>
    exact ⟨encFXB_fields ht, rfl⟩
  | 0xD, _, rfl => exact ⟨encFXYN_fields ht, rfl⟩
  | 0x5, _, hd | 0x9, _, hd =>
    obtain ⟨hn, rfl⟩ := ite_eq_ok hd
    exact ⟨encFXY_fields ht (congrArg Fin.val hn), rfl⟩
  | 0x8, _, hd =>
    obtain ⟨sub, hn, he, hwf⟩ := decode8_eq_ok hd
    exact ⟨he.trans (encFXY_fields ht hn), hwf⟩
  | 0xE, _, hd =>
    obtain ⟨sub, hnn, he, hwf⟩ := decodeE_eq_ok hd
    exact ⟨he.trans (encFXS_fields ht hnn), hwf⟩
  | n + 0xF, hlt, hd =>
    obtain rfl : n = 0 := by omega
    obtain ⟨sub, hnn, he, hwf⟩ := decodeF_eq_ok hd
    exact ⟨he.trans (encFXS_fields ht hnn), hwf⟩

/-! ### The invalid opcodes -/

/-- The low nibbles that R98's table leaves out. -/
theorem decode8_eq_error (x y : Reg) (n : RowCount) :
    (∃ e, decode8 x y n.val = .error e) ↔ n.val ∈ [8, 9, 10, 11, 12, 13, 15] := by
  fin_cases n <;> simp [decode8]

theorem decodeE_eq_error {x : Reg} {n : Nat} :
    (∃ e, decodeE x n = .error e) ↔ n ∉ [0x9E, 0xA1] := by
  unfold decodeE
  split <;> simp_all

theorem decodeF_eq_error {x : Reg} {n : Nat} :
    (∃ e, decodeF x n = .error e) ↔
      n ∉ [0x07, 0x0A, 0x15, 0x18, 0x1E, 0x29, 0x33, 0x55, 0x65] := by
  unfold decodeF
  split <;> simp_all

/-- Settles O3, by the top nibble: eleven of the sixteen have no invalid opcode. -/
theorem invalidOpcodesAreTheTabledOnes : Obligations.InvalidOpcodesAreTheTabledOnes := by
  intro op
  rw [← fieldT_toNat, ← fieldN_val, ← fieldNN_toNat]
  match ht : (fieldT op).toNat, (fieldT op).isLt with
  | 0x0, _ | 0x1, _ | 0x2, _ | 0x3, _ | 0x4, _ | 0x6, _ | 0x7, _ | 0xA, _ | 0xB, _ | 0xC, _
  | 0xD, _ => simp [decodeWord, ht]
  | 0x5, _ | 0x9, _ =>
    by_cases hn : fieldN op = 0 <;> simp [decodeWord, ht, hn]
  | 0x8, _ => simp [decodeWord, ht, decode8_eq_error]
  | 0xE, _ => simp [decodeWord, ht, decodeE_eq_error]
  | n + 0xF, hlt =>
    obtain rfl : n = 0 := by omega
    simp [decodeWord, ht, decodeF_eq_error]

namespace Machine

/-! ### The errors of an instruction and of a step -/

theorem exec_call_fault {nnn : Addr12} {s : State} {e : Fault}
    (h : exec (.call nnn) s = .fault e) : Raises (.call nnn) s e := by
  simp only [exec, execCall, raise] at h
  split at h
  · next hp =>
    split at h
    · next hsp => cases h; exact .overflow nnn s hp hsp
    · cases h
  · cases h

theorem exec_ret_fault {s : State} {e : Fault} (h : exec .ret s = .fault e) : Raises .ret s e := by
  simp only [exec, execRet, raise] at h
  split at h
  · next hp =>
    split at h
    · next hsp => cases h; exact .underflow s hp (by simp [hsp])
    · cases h
  · cases h

theorem keyOperand_eq_none {v : Byte} : keyOperand v = none ↔ 15 < v.toNat := by
  simp only [keyOperand, dite_eq_right_iff, reduceCtorEq, imp_false]
  omega

theorem exec_skp_fault {x : Reg} {s : State} {e : Fault} (h : exec (.skp x) s = .fault e) :
    Raises (.skp x) s e := by
  simp only [exec, execSkp, raise] at h
  split at h
  · cases h
  · next hk => cases h; exact .keyDown x s (keyOperand_eq_none.1 hk)

theorem exec_sknp_fault {x : Reg} {s : State} {e : Fault} (h : exec (.sknp x) s = .fault e) :
    Raises (.sknp x) s e := by
  simp only [exec, execSknp, raise] at h
  split at h
  · cases h
  · next hk => cases h; exact .keyUp x s (keyOperand_eq_none.1 hk)

/-- The errors of an instruction are the ones of the table (R331, R334). -/
theorem exec_fault_raises {i : Instr} {s : State} {e : Fault} (h : exec i s = .fault e) :
    Raises i s e := by
  cases i with
  | call => exact exec_call_fault h
  | ret => exact exec_ret_fault h
  | skp => exact exec_skp_fault h
  | sknp => exact exec_sknp_fault h
  | _ => cases h

/-- A step that ends in an error fails its guard, fetches an invalid opcode, or passes on the error
of the fetched instruction. -/
theorem step_fault_cases {s : State} {e : Fault} (h : step s = .fault e) :
    (s.initialized = false ∧ e = .notInitialized .step) ∨
    (s.initialized = true ∧ s.waiting = false ∧
      ((∃ c, decodeWord s.opcode = .error c ∧ e = s.invalidOpcode) ∨
       (∃ i, decodeWord s.opcode = .ok i ∧ Raises i s.beginInstr e))) := by
  cases hi : s.initialized with
  | false => exact .inl ⟨rfl, by simpa [step, hi, raise, eq_comm] using h⟩
  | true =>
    cases hw : s.waiting with
    | true => cases (step_waiting hi hw).symm.trans h
    | false =>
      refine .inr ⟨rfl, rfl, ?_⟩
      cases hd : decodeWord s.opcode with
      | error c =>
        cases (step_invalid hi hw hd).symm.trans h
        exact .inl ⟨c, rfl, rfl⟩
      | ok i =>
        have hexec : exec i s.beginInstr = .fault e :=
          endStep_eq_fault.1 ((step_decoded hi hw hd).symm.trans h)
        exact .inr ⟨i, rfl, exec_fault_raises hexec⟩

end Machine

/-- Settles O36: of the errors of a step, the decode error alone is an InvalidOpcode. -/
theorem invalidOpcodeRaisedExactlyWhenFetched :
    Obligations.InvalidOpcodeRaisedExactlyWhenFetched := by
  intro s op a d
  constructor
  · intro h
    obtain ⟨-, he⟩ | ⟨hi, hw, ⟨c, hd, he⟩ | ⟨i, -, hr⟩⟩ := step_fault_cases h
    · cases he
    · cases he
      exact ⟨hi, hw, rfl, rfl, fieldT_toNat _, c, hd⟩
    · cases hr
  · rintro ⟨hi, hw, rfl, rfl, hn, c, hd⟩
    obtain rfl : d = fieldT s.opcode := BitVec.eq_of_toNat_eq (hn.trans (fieldT_toNat _).symm)
    exact step_invalid hi hw hd

end Sys2Proof

namespace Sys2Proof.Machine

/-! ### The results of a step -/

/-- Every instruction has a meaning: `exec` completes or raises an error. -/
theorem exec_ne_refused (i : Instr) (s : State) (r : Refusal) : exec i s ≠ .refused r := by
  intro h
  cases i with
  | call | ret =>
    simp only [exec, execCall, execRet, raise] at h
    split at h
    · split at h <;> cases h
    · cases h
  | skp | sknp =>
    simp only [exec, execSkp, execSknp, raise] at h
    split at h <;> cases h
  | _ => cases h

/-- A step is never refused (R138). -/
theorem step_ne_refused (s : State) (r : Refusal) : step s ≠ .refused r := by
  unfold step
  split_ifs
  · exact nofun
  · exact nofun
  · split
    · exact nofun
    · exact fun h => exec_ne_refused _ _ r (endStep_eq_refused.1 h)

/-! ### What a tick leaves -/

/-- The delay timer counts down and stops at zero (R340). -/
theorem State.timerTick_DT_toNat (s : State) : s.timerTick.DT.toNat = s.DT.toNat - 1 := by
  rw [State.timerTick_eq]
  dsimp only
  split <;> bv_omega

@[simp] theorem State.timerTick_ST (s : State) : s.timerTick.ST = 0 := by
  rw [State.timerTick_eq]

/-- A running sound timer becomes one tone request of its value (R341). -/
theorem State.timerTick_events (s : State) :
    s.timerTick.events = s.events ++ (if 0 < s.ST.toNat then [.requestBeep s.ST] else []) := by
  rw [State.timerTick_eq]
  dsimp only
  split
  · next h => simp [h]
  · next h => rw [if_pos (by bv_omega)]

/-- The tick of a step adds at most one tone request, of a duration above 0, and only under
`PerStep` (R135, R355). -/
theorem State.stepTick_events (s : State) : ∃ beep, s.stepTick.events = s.events ++ beep ∧
    (beep = [] ∨
      (s.config.timerCadence = .perStep ∧ ∃ d, 0 < d.toNat ∧ beep = [.requestBeep d])) := by
  rw [State.stepTick_eq]
  split
  · next hc =>
    refine ⟨_, s.timerTick_events, ?_⟩
    split
    · next hST => exact .inr ⟨hc, s.ST, hST, rfl⟩
    · exact .inl rfl
  · exact ⟨[], (List.append_nil _).symm, .inl rfl⟩

/-! ### The wait sub-state -/

theorem State.waitStep_of_external {s : State} (hc : s.config.timerCadence = .external) :
    s.waitStep = s.clearEvents := by
  rw [State.waitStep, State.stepTick_eq, if_neg (by simp [hc])]

theorem State.waitStep_of_perStep {s : State} (hc : s.config.timerCadence = .perStep) :
    s.waitStep = s.clearEvents.timerTick := by
  rw [State.waitStep, State.stepTick_eq, State.clearEvents_config, if_pos hc]

/-- A press edge ends a wait, and no other level of a key touches the wait (R303, R344). -/
theorem State.keyEvent_waiting (s : State) (k : Key) (d : Bool) :
    (s.keyEvent k d).waiting = if s.key k = false ∧ d = true then false else s.waiting := by
  unfold State.keyEvent
  dsimp only
  split
  · split
    · rfl
    · next hw => simpa using hw
  · split <;> rfl

end Sys2Proof.Machine

namespace Sys2Proof

open Machine

/-- 00E0 and DXYN emit displayChanged, and no other instruction emits an event (R275). -/
theorem exec_events {i : Instr} {s t : State} (h : exec i s = .next t) :
    t.events = s.events ++ (if isDisplay i then [.displayChanged] else []) := by
  by_cases hd : isDisplay i = true
  · rw [if_pos hd]
    cases i with
    | cls | drw => cases h; rfl
    | _ => cases hd
  · rw [if_neg hd, List.append_nil]
    exact exec_changesOnly h .events hd

/-- A waiting block still waits after a step (R137). -/
theorem step_next_waiting {s t : State} (h : step s = .next t) (hw : s.waiting = true) :
    t.waiting = true := by
  obtain ⟨-, ⟨-, rfl⟩ | ⟨hrun, -⟩⟩ := step_next_cases h
  · have hsame : s.waitStep.waiting = s.waiting := changesOnly_waitStep s .waiting (by simp)
    exact hsame.trans hw
  · simp [hw] at hrun

/-- A waiting block still waits after a tick of the host (R354). -/
theorem hostTick_next_waiting {s t : State} (h : hostTick s = .next t) (hw : s.waiting = true) :
    t.waiting = true := by
  obtain ⟨-, -, rfl⟩ := hostTick_next h
  have hsame : s.clearEvents.timerTick.waiting = s.waiting :=
    changesOnly_timerTick s.clearEvents .waiting (by simp)
  exact hsame.trans hw

/-- A key's new level that is no press edge does not end a wait (R344). -/
theorem hostSetKey_next_waiting {k : Nat} {d : Bool} {s t : State}
    (h : hostSetKey k d s = .next t) (hw : s.waiting = true)
    (hedge : ∀ hk : k < 16, ¬ (s.key ⟨k, hk⟩ = false ∧ d = true)) : t.waiting = true := by
  obtain ⟨-, hk, rfl⟩ := hostSetKey_next h
  exact (State.keyEvent_waiting _ _ _).trans ((if_neg (hedge hk)).trans hw)

/-- Settles O35: the step is the decoded instruction on the advanced state, ended by the tick, and
the instruction left the cadence as it was. -/
theorem stepRunsDecodedInstruction : Obligations.StepRunsDecodedInstruction := by
  intro s i hi hw hd
  have hstep : step s = endStep (exec i s.beginInstr) := step_decoded hi hw hd
  refine ⟨fun e he => hstep.trans (endStep_eq_fault.2 he), fun t ht => ?_⟩
  have hconfig : t.config = s.config := exec_config (s := s.beginInstr) ht
  rw [← hconfig, ← State.stepTick_eq]
  exact hstep.trans (endStep_eq_next.2 ⟨t, ht, rfl⟩)

/-- Settles O37, by the cadence of the wait sub-state's tick. -/
theorem waitingStepOnlyTicks : Obligations.WaitingStepOnlyTicks := by
  intro s hi hw
  have hstep := step_waiting hi hw
  refine ⟨fun hc => ⟨s.waitStep, hstep, ?_⟩, fun hc => ⟨s.waitStep, hstep, ?_⟩⟩
  · rw [State.waitStep_of_external hc]
    exact ⟨rfl, changesOnly_clearEvents s⟩
  · have frame := changesOnly_waitStep s
    rw [State.waitStep_of_perStep hc] at frame ⊢
    exact ⟨State.timerTick_DT_toNat _, State.timerTick_ST _, State.timerTick_events _, frame⟩

/-- Settles O38: a step is never refused, and its errors are the guard's, the decoder's and those of
the table of instruction errors. -/
theorem stepResults : Obligations.StepResults := by
  intro s
  cases h : step s with
  | next t => exact .inl ⟨t, rfl⟩
  | refused r => exact absurd h (step_ne_refused s r)
  | fault e =>
    refine .inr ⟨e, rfl, ?_⟩
    obtain ⟨-, rfl⟩ | ⟨-, -, ⟨c, -, rfl⟩ | ⟨i, -, hr⟩⟩ := step_fault_cases h
    · exact .inl rfl
    · exact .inr (.inl ⟨_, _, _, rfl⟩)
    · cases hr with
      | overflow => exact .inr (.inr (.inl ⟨_, _, rfl⟩))
      | underflow => exact .inr (.inr (.inr (.inl ⟨_, rfl⟩)))
      | keyDown x _ hx | keyUp x _ hx => exact .inr (.inr (.inr (.inr ⟨_, hx, rfl⟩)))

/-- Settles O40: the instruction's events on the state with none, then the tick's. -/
theorem eventsOfAStep : Obligations.EventsOfAStep := by
  intro s t i h hw hd
  obtain ⟨-, ⟨hw', -⟩ | ⟨-, j, u, hj, hu, rfl⟩⟩ := step_next_cases h
  · simp [hw] at hw'
  · obtain rfl : i = j := by simpa [hd] using hj
    obtain ⟨beep, hevents, hbeep⟩ := u.stepTick_events
    have hconfig : u.config = s.config := exec_config (s := s.beginInstr) hu
    rw [exec_events hu, State.beginInstr_events, List.nil_append] at hevents
    rw [hconfig] at hbeep
    exact ⟨beep, hevents, hbeep⟩

/-- Settles O53: a step, a tick and a key's level without a press edge leave a block waiting. -/
theorem waitEndsOnlyAtPressEdge : Obligations.WaitEndsOnlyAtPressEdge := by
  intro s c hw hend
  have hnot : ¬ (perform s c).state.waiting = true := by simp [hend]
  cases c with
  | init => exact .inr (.inr rfl)
  | load rom => exact .inr (.inl ⟨rom, rfl⟩)
  | step =>
    exact absurd
      (respond_state (P := (·.waiting = true)) hw fun _ h => step_next_waiting h hw) hnot
  | tick =>
    exact absurd
      (respond_state (P := (·.waiting = true)) hw fun _ h => hostTick_next_waiting h hw) hnot
  | readFramebuffer => exact absurd hw hnot
  | setKey k d =>
    by_cases hedge : ∃ hk : k < 16, s.key ⟨k, hk⟩ = false ∧ d = true
    · obtain ⟨hk, hup, rfl⟩ := hedge
      exact .inl ⟨⟨k, hk⟩, rfl, hup⟩
    · exact absurd (respond_state (P := (·.waiting = true)) hw fun _ h =>
        hostSetKey_next_waiting h hw (not_exists.1 hedge)) hnot

end Sys2Proof

namespace Sys2Proof.Machine

/-! ### The guarded stack instructions, forwards

The guards are those of `exec_call_next` and `exec_ret_next`; under `Wrap` they are vacuous. -/

theorem exec_call_eq_next {s : State} (nnn : Addr12)
    (h : s.config.stackErrorPolicy = .fault → s.SP.toNat < 16) :
    exec (.call nnn) s = .next ((s.push s.pc).setPc (addr16 nnn)) := by
  simp only [exec, execCall]
  split
  · next hp => exact if_neg (Nat.not_le.2 (h hp))
  · rfl

theorem exec_call_eq_fault {s : State} (nnn : Addr12) (hp : s.config.stackErrorPolicy = .fault)
    (h : 16 ≤ s.SP.toNat) : exec (.call nnn) s = .fault (.stackOverflow (s.pc - 2) s.SP) := by
  simp only [exec, execCall, hp]
  exact if_pos h

theorem exec_ret_eq_next {s : State} (h : s.config.stackErrorPolicy = .fault → s.SP ≠ 0) :
    exec .ret s = .next s.popPc := by
  simp only [exec, execRet]
  split
  · next hp => exact if_neg (h hp)
  · rfl

theorem exec_ret_eq_fault {s : State} (hp : s.config.stackErrorPolicy = .fault) (h : s.SP = 0) :
    exec .ret s = .fault (.stackUnderflow (s.pc - 2)) := by
  simp only [exec, execRet, hp]
  exact if_pos h

/-! ### The stack entry of a push and of a pop -/

/-- Below 16 the reduction of the stack index changes nothing (R27). -/
theorem stackIndex_of_lt {sp : Byte} (h : sp.toNat < 16) : stackIndex sp = ⟨sp.toNat, h⟩ :=
  Fin.ext (Nat.mod_eq_of_lt h)

theorem State.push_entry (s : State) (w : Word) : (s.push w).S[stackIndex s.SP] = w := by
  simp

/-- A pop reads the entry that the last push wrote, and takes its count back (R162, R163). -/
theorem State.popPc_of_pushed {s u : State} {w : Word} (hSP : u.SP = (s.push w).SP)
    (hS : u.S = (s.push w).S) : u.popPc.pc = w ∧ u.popPc.SP = s.SP := by
  have hback : u.SP - 1 = s.SP := by rw [hSP, State.push_SP, BitVec.add_sub_cancel]
  refine ⟨?_, hback⟩
  simp only [State.popPc_pc, hback, hS, State.push_entry]

/-- `SP - 1` as a number: modulo 256 (R163). -/
theorem toNat_sub_one (sp : Byte) : (sp - 1).toNat = (sp.toNat + 255) % 256 := by
  bv_omega

theorem toNat_add_one (sp : Byte) : (sp + 1).toNat = (sp.toNat + 1) % 256 := by
  bv_omega

end Sys2Proof.Machine

namespace Sys2Proof

open Machine

/-- What 2NNN does to the state when it completes, under either policy (R162). -/
theorem completes_call {s : State} (nnn : Addr12)
    (h : s.config.stackErrorPolicy = .fault → s.SP.toNat < 16) :
    Completes (.call nnn) s fun t =>
      t.S[stackIndex s.SP] = s.pc ∧ t.SP.toNat = (s.SP.toNat + 1) % 256 ∧
      t.pc.toNat = nnn.toNat ∧ ChangesOnly (· ∈ [.pc, .SP, .entry (stackIndex s.SP)]) s t :=
  ⟨_, exec_call_eq_next nnn h, s.push_entry s.pc, toNat_add_one s.SP, addr16_toNat nnn,
    ((changesOnly_push s s.pc).mono (by simp +contextual)).trans
      ((changesOnly_setPc _ _).of_eq (by simp))⟩

/-- What 00EE does to the state when it completes, under either policy (R163). -/
theorem completes_ret {s : State} (h : s.config.stackErrorPolicy = .fault → s.SP ≠ 0) :
    Completes .ret s fun t =>
      t.SP = s.SP - 1 ∧ t.pc = s.S[stackIndex (s.SP - 1)] ∧ ChangesOnly (· ∈ [.pc, .SP]) s t :=
  ⟨_, exec_ret_eq_next h, rfl, rfl, changesOnly_popPc s⟩

/-- Settles O10: the return pops the entry that the call pushed. -/
theorem returnUndoesCall : Obligations.ReturnUndoesCall := by
  intro nnn s t u w hcall hSP hS hret
  obtain ⟨rfl, -⟩ := exec_call_next hcall
  obtain ⟨rfl, -⟩ := exec_ret_next hret
  exact State.popPc_of_pushed hSP hS

/-- Settles O5: the decoder's half is O1 for a well-formed SYS. -/
theorem sysDoesNothing : Obligations.SysDoesNothing := by
  intro nnn s
  refine ⟨fun hcls hret => decodeOfEncode (.sys nnn) ?_, rfl⟩
  simp [Instr.wf, sysExcluded, hcls, hret]

/-- Settles O6, by the rules of a write to `pc`. -/
theorem jpSetsPc : Obligations.JpSetsPc := fun nnn s =>
  ⟨decodeOfEncode (.jp nnn) rfl, _, rfl, addr16_toNat nnn, changesOnly_setPc s _⟩

/-- Settles O7: one push and jump for both policies; under `Fault` neither the entry's index nor `SP`
wraps. -/
theorem callPushesReturnAddress : Obligations.CallPushesReturnAddress := by
  intro nnn s
  refine ⟨decodeOfEncode (.call nnn) rfl, fun _ hlt => ?_, exec_call_eq_fault nnn, fun hp => ?_⟩
  · obtain ⟨t, ht, hentry, hSP, hpc, hframe⟩ := completes_call nnn fun _ => hlt
    simp only [stackIndex_of_lt hlt] at hentry hframe
    exact ⟨t, ht, hentry, by omega, hpc, hframe⟩
  · exact completes_call nnn (by simp [hp])

/-- Settles O8: one pop for both policies; under `Fault` neither `SP` nor the entry's index wraps. -/
theorem retPopsReturnAddress : Obligations.RetPopsReturnAddress := by
  intro s
  refine ⟨decodeOfEncode .ret rfl, fun _ hpos hle => ?_, fun hp h0 => ?_, fun hp => ?_⟩
  · obtain ⟨t, ht, hSP, hpc, hframe⟩ := completes_ret (s := s) fun _ => by bv_omega
    have hsub : (s.SP - 1).toNat = s.SP.toNat - 1 := by rw [toNat_sub_one]; omega
    have hlt : (s.SP - 1).toNat < 16 := by omega
    simp only [stackIndex_of_lt hlt, hsub] at hpc
    exact ⟨t, ht, by rw [hSP, hsub], hpc, hframe⟩
  · exact exec_ret_eq_fault hp (BitVec.eq_of_toNat_eq h0)
  · obtain ⟨t, ht, hSP, hpc, hframe⟩ := completes_ret (s := s) (by simp [hp])
    simp only [stackIndex, toNat_sub_one] at hpc
    exact ⟨t, ht, by rw [hSP, toNat_sub_one], hpc, hframe⟩

/-- NNN + V0 stays below 0x10FE, so the 16-bit sum is exact (R164). -/
theorem addr16_add_zext16_toNat (nnn : Addr12) (b : Byte) :
    (addr16 nnn + zext16 b).toNat = nnn.toNat + b.toNat := by
  rw [BitVec.toNat_add, addr16_toNat, zext16_toNat]
  omega

/-- Settles O9, by the rules of a write to `pc`. -/
theorem jpV0AddsV0 : Obligations.JpV0AddsV0 := fun nnn s =>
  ⟨decodeOfEncode (.jpV0 nnn) rfl, _, rfl, addr16_add_zext16_toNat nnn _, changesOnly_setPc s _⟩

end Sys2Proof

namespace Sys2Proof.Machine

/-! ### The key skips, forwards -/

theorem keyOperand_of_lt {v : Byte} (h : v.toNat < 16) : keyOperand v = some ⟨v.toNat, h⟩ :=
  dif_pos h

section
variable {x : Reg} {s : State}

theorem exec_skp_eq_next (h : (s.reg x).toNat < 16) :
    exec (.skp x) s = .next (s.skipIf (s.key ⟨(s.reg x).toNat, h⟩)) := by
  simp only [exec, execSkp, keyOperand_of_lt h]

theorem exec_sknp_eq_next (h : (s.reg x).toNat < 16) :
    exec (.sknp x) s = .next (s.skipIf (!s.key ⟨(s.reg x).toNat, h⟩)) := by
  simp only [exec, execSknp, keyOperand_of_lt h]

theorem exec_skp_eq_fault (h : 15 < (s.reg x).toNat) :
    exec (.skp x) s = .fault (.invalidKeyIndex (s.reg x).toNat) := by
  simp only [exec, execSkp, keyOperand_eq_none.2 h, raise]

theorem exec_sknp_eq_fault (h : 15 < (s.reg x).toNat) :
    exec (.sknp x) s = .fault (.invalidKeyIndex (s.reg x).toNat) := by
  simp only [exec, execSknp, keyOperand_eq_none.2 h, raise]

end

end Sys2Proof.Machine

namespace Sys2Proof

open Machine

/-! ### The low nibbles of 5XYn and 9XYn -/

section
variable (x y : Reg) {n : BitVec 4} (hn : n ≠ 0)
include hn

theorem fieldN_encFXY_ne_zero (t : BitVec 4) : fieldN (encFXY t x y n) ≠ 0 := by
  intro h
  have hval : n.toNat = 0 := (fieldN_encFXY t x y n).symm.trans (congrArg Fin.val h)
  exact hn (BitVec.eq_of_toNat_eq hval)

theorem decodeWord_encFXY_5_invalid : decodeWord (encFXY 0x5#4 x y n) = .error .lowNibbleOf5 := by
  simp [decodeWord, fieldN_encFXY_ne_zero x y hn]

theorem decodeWord_encFXY_9_invalid : decodeWord (encFXY 0x9#4 x y n) = .error .lowNibbleOf9 := by
  simp [decodeWord, fieldN_encFXY_ne_zero x y hn]

end

/-! ### What a skip does to the state

One rule for a skip taken when `p` holds and one for a skip taken when it does not; the six
instructions differ in their condition only. -/

section
variable {i : Instr} {s : State} {c : Bool} {p : Prop} [Decidable p]
  (hexec : exec i s = .next (s.skipIf c))
include hexec

theorem completes_skip_when (hc : c = true ↔ p) :
    Completes i s fun t =>
      t.pc = (if p then s.pc + 2 else s.pc) ∧ ChangesOnly (· = .pc) s t :=
  ⟨_, hexec, by simp only [State.skipIf_pc, hc], changesOnly_skipIf s c⟩

theorem completes_skip_unless (hc : c = true ↔ ¬ p) :
    Completes i s fun t =>
      t.pc = (if p then s.pc else s.pc + 2) ∧ ChangesOnly (· = .pc) s t :=
  ⟨_, hexec, by simp only [State.skipIf_pc, hc, ite_not], changesOnly_skipIf s c⟩

end

/-- Settles O11: the two conditions are the equality test and its negation. -/
theorem skipOnImmediate : Obligations.SkipOnImmediate := fun x nn _ =>
  ⟨decodeOfEncode (.seB x nn) rfl, decodeOfEncode (.sneB x nn) rfl,
    completes_skip_when rfl beq_iff_eq, completes_skip_unless rfl bne_iff_ne⟩

/-- Settles O12: as for the immediate skips, with the decode errors read off the low nibble. -/
theorem skipOnRegisters : Obligations.SkipOnRegisters := fun x y _ =>
  ⟨decodeOfEncode (.seR x y) rfl, decodeOfEncode (.sneR x y) rfl,
    fun _ hn => ⟨decodeWord_encFXY_5_invalid x y hn, decodeWord_encFXY_9_invalid x y hn⟩,
    completes_skip_when rfl beq_iff_eq, completes_skip_unless rfl bne_iff_ne⟩

/-- Settles O13: a value up to 15 is a key, whose level decides the skip; one above is no key. -/
theorem skipOnKey : Obligations.SkipOnKey := fun x _ =>
  ⟨decodeOfEncode (.skp x) rfl, decodeOfEncode (.sknp x) rfl,
    fun hkey => ⟨completes_skip_when (exec_skp_eq_next hkey) Iff.rfl,
      completes_skip_unless (exec_sknp_eq_next hkey) (by simp)⟩,
    fun hbig => ⟨exec_skp_eq_fault hbig, exec_sknp_eq_fault hbig⟩⟩

end Sys2Proof

namespace Sys2Proof.Machine

/-! ### A register or the flag read back after its write -/

theorem State.reg_setReg_same (s : State) (x : Reg) (b : Byte) : (s.setReg x b).reg x = b :=
  (State.reg_setReg s x x b).trans (if_pos rfl)

theorem State.reg_setRegAndFlag_VF (s : State) (x : Reg) (b : Byte) (c : Bool) :
    (s.setRegAndFlag x b c).reg VF = flagByte c :=
  State.reg_setReg_same (s.setReg x b) VF (flagByte c)

theorem State.reg_setRegAndFlag_of_ne (s : State) {x : Reg} (hx : x ≠ VF) (b : Byte) (c : Bool) :
    (s.setRegAndFlag x b c).reg x = b := by
  simp [hx]

/-! ### The results and flags of the ALU as numbers -/

theorem flagByte_decide (p : Prop) [Decidable p] : flagByte (decide p) = if p then 1 else 0 := by
  simp only [flagByte, decide_eq_true_eq]

theorem flagByte_toNat (c : Bool) : (flagByte c).toNat = c.toNat := by cases c <;> rfl

/-- Bit 0 of a byte is its remainder by 2 (R218). -/
theorem shiftedOutRight_toNat (b : Byte) : (shiftedOutRight b).toNat = b.toNat % 2 := by
  have hbit : (shiftedOutRight b).toNat = b.toNat / 2 ^ 0 % 2 := Nat.toNat_testBit b.toNat 0
  omega

/-- Bit 7 of a byte is its quotient by 128 (R220). -/
theorem shiftedOutLeft_toNat (b : Byte) : (shiftedOutLeft b).toNat = b.toNat / 128 := by
  have hbit : (shiftedOutLeft b).toNat = b.toNat / 2 ^ 7 % 2 := Nat.toNat_testBit b.toNat 7
  omega

/-- A difference of bytes, with the borrow added before subtracting (R217, R219). -/
theorem toNat_sub_borrow (a b : Byte) : (a - b).toNat = (a.toNat + 256 - b.toNat) % 256 := by
  rw [BitVec.toNat_sub]
  omega

theorem toNat_ushiftRight_one (b : Byte) : (b >>> 1).toNat = b.toNat / 2 := by
  rw [BitVec.toNat_ushiftRight, Nat.shiftRight_eq_div_pow, Nat.pow_one]

theorem toNat_shiftLeft_one (b : Byte) : (b <<< 1).toNat = b.toNat * 2 % 256 := by
  rw [BitVec.toNat_shiftLeft, Nat.shiftLeft_eq, Nat.pow_one]

end Sys2Proof.Machine

namespace Sys2Proof

open Machine

/-! ### What an ALU instruction does to the state

One rule for the instructions that write VX alone and one for those that write VF after it (R201);
the instructions differ in the value and in the flag only. -/

section
variable {i : Instr} {s : State} {x : Reg} {b : Byte}

theorem completes_setReg (hexec : exec i s = .next (s.setReg x b)) :
    Completes i s fun t => t.reg x = b ∧ ChangesOnly (· = .reg x) s t :=
  ⟨_, hexec, s.reg_setReg_same x b, changesOnly_setReg s x b⟩

theorem completes_setRegAndFlag {c : Bool} (hexec : exec i s = .next (s.setRegAndFlag x b c)) :
    Completes i s fun t =>
      (x ≠ VF → t.reg x = b) ∧ t.reg VF = flagByte c ∧
      ChangesOnly (· ∈ [.reg x, .reg VF]) s t :=
  ⟨_, hexec, fun hx => s.reg_setRegAndFlag_of_ne hx b c, s.reg_setRegAndFlag_VF x b c,
    changesOnly_setRegAndFlag s x b c⟩

/-- The rule for a flag that says whether a condition holds. -/
theorem completes_setRegAndFlag_decide {p : Prop} [Decidable p] {v : Nat}
    (hexec : exec i s = .next (s.setRegAndFlag x b (decide p))) (hv : b.toNat = v) :
    Completes i s fun t =>
      (x ≠ VF → (t.reg x).toNat = v) ∧ t.reg VF = (if p then 1 else 0) ∧
      ChangesOnly (· ∈ [.reg x, .reg VF]) s t := by
  obtain ⟨t, ht, hreg, hflag, hframe⟩ := completes_setRegAndFlag hexec
  exact ⟨t, ht, fun hx => by rw [hreg hx, hv], by rw [hflag, flagByte_decide], hframe⟩

/-- The rule for a flag that is a bit of an operand. -/
theorem completes_setRegAndFlag_bit {c : Bool} {v m : Nat}
    (hexec : exec i s = .next (s.setRegAndFlag x b c)) (hv : b.toNat = v) (hm : c.toNat = m) :
    Completes i s fun t =>
      (x ≠ VF → (t.reg x).toNat = v) ∧ (t.reg VF).toNat = m ∧
      ChangesOnly (· ∈ [.reg x, .reg VF]) s t := by
  obtain ⟨t, ht, hreg, hflag, hframe⟩ := completes_setRegAndFlag hexec
  exact ⟨t, ht, fun hx => by rw [hreg hx, hv], by rw [hflag, flagByte_toNat, hm], hframe⟩

/-- The rule for a bitwise operation: what holds of every bit of the value holds of VX. -/
theorem completes_setReg_bits {f : Nat → Bool} (hexec : exec i s = .next (s.setReg x b))
    (hf : ∀ k, b.getLsbD k = f k) :
    Completes i s fun t =>
      ChangesOnly (· = .reg x) s t ∧ ∀ k, (t.reg x).getLsbD k = f k := by
  obtain ⟨t, ht, hreg, hframe⟩ := completes_setReg hexec
  exact ⟨t, ht, hframe, fun k => by rw [hreg, hf]⟩

end

/-- Settles O14, by the rule for VX alone. -/
theorem registerLoads : Obligations.RegisterLoads := fun x y nn _ =>
  ⟨decodeOfEncode (.ldB x nn) rfl, decodeOfEncode (.ldR x y) rfl,
    completes_setReg rfl, completes_setReg rfl⟩

/-- Settles O15: the 8-bit sum is the exact sum modulo 256. -/
theorem addImmediate : Obligations.AddImmediate := by
  intro x nn s
  obtain ⟨t, ht, hreg, hframe⟩ := completes_setReg (i := .addB x nn) (s := s) rfl
  exact ⟨decodeOfEncode (.addB x nn) rfl, t, ht, by rw [hreg, BitVec.toNat_add], hframe⟩

/-- Settles O16: each operation acts on each bit alone. -/
theorem bitwiseOperations : Obligations.BitwiseOperations := fun x y _ =>
  ⟨decodeOfEncode (.orR x y) rfl, decodeOfEncode (.andR x y) rfl, decodeOfEncode (.xorR x y) rfl,
    completes_setReg_bits rfl fun _ => BitVec.getLsbD_or,
    completes_setReg_bits rfl fun _ => BitVec.getLsbD_and,
    completes_setReg_bits rfl fun _ => BitVec.getLsbD_xor⟩

/-- Settles O17, by the rule for a condition's flag: it is the carry of the exact sum of the old operands. -/
theorem addRegistersWithCarry : Obligations.AddRegistersWithCarry := fun x y _ =>
  ⟨decodeOfEncode (.addR x y) rfl, completes_setRegAndFlag_decide rfl (BitVec.toNat_add _ _)⟩

/-- Settles O18, by the rule for a condition's flag; SUBN is SUB with its operands exchanged. -/
theorem subtractWithNoBorrowFlag : Obligations.SubtractWithNoBorrowFlag := fun x y _ =>
  ⟨decodeOfEncode (.sub x y) rfl, decodeOfEncode (.subn x y) rfl,
    completes_setRegAndFlag_decide rfl (toNat_sub_borrow _ _),
    completes_setRegAndFlag_decide rfl (toNat_sub_borrow _ _)⟩

/-- Settles O19: a shift by one is a quotient or a product by 2, and the flag the digit lost. -/
theorem shiftsOfVy : Obligations.ShiftsOfVy := fun x y _ =>
  ⟨decodeOfEncode (.shr x y) rfl, decodeOfEncode (.shl x y) rfl,
    completes_setRegAndFlag_bit rfl (toNat_ushiftRight_one _) (shiftedOutRight_toNat _),
    completes_setRegAndFlag_bit rfl (toNat_shiftLeft_one _) (shiftedOutLeft_toNat _)⟩

/-- Settles O20: the draw is read before it is counted, and the two updates have a frame each. -/
theorem randomMasksFreshDraw : Obligations.RandomMasksFreshDraw := fun x nn s =>
  ⟨decodeOfEncode (.rnd x nn) rfl, _, rfl, State.reg_setReg_same _ x _, rfl,
    ((changesOnly_countDraw s).of_eq (by simp)).trans ((changesOnly_setReg _ x _).of_eq (by simp))⟩

end Sys2Proof

namespace Sys2Proof.Machine

/-! ### The values of `I`, and the decimal digits as numbers -/

/-- ADD I keeps the low 16 bits of the exact sum (R241). -/
theorem add_zext16_toNat (w : Word) (b : Byte) :
    (w + zext16 b).toNat = (w.toNat + b.toNat) % 65536 := by
  rw [BitVec.toNat_add, zext16_toNat]

/-- VX * 5 is at most 1275, so the 16-bit product is exact (R242). -/
theorem glyphAddr_toNat (b : Byte) : (glyphAddr b).toNat = b.toNat * 5 := by
  have hmul : (glyphAddr b).toNat = b.toNat * 5 % 65536 := by
    rw [glyphAddr, BitVec.toNat_mul, zext16_toNat]
    rfl
  omega

theorem hundreds_toNat (v : Byte) : (hundreds v).toNat = v.toNat / 100 := by
  rw [hundreds, BitVec.toNat_ofNat]
  omega

theorem tens_toNat (v : Byte) : (tens v).toNat = v.toNat / 10 % 10 := by
  rw [tens, BitVec.toNat_ofNat]
  omega

theorem ones_toNat (v : Byte) : (ones v).toNat = v.toNat % 10 := by
  rw [ones, BitVec.toNat_ofNat]
  omega

/-! ### The stores of FX33 -/

theorem State.decimalStores_cells_differ (s : State) (x : Reg) :
    (s.decimalStores x).Pairwise (fun v w => cellOf v.1 ≠ cellOf w.1) := by
  have hne {i j : Nat} (hi : i < 4096) (hj : j < 4096) (hij : i ≠ j) :
      cellOf (s.effAddr i) ≠ cellOf (s.effAddr j) := fun h => hij (s.effAddr_cell_inj hi hj h)
  simp [State.decimalStores, hne]

/-- What FX33 stores (R243): each digit is read back at its address. -/
theorem State.readByte_decimalStores (s : State) (x : Reg) :
    (s.writeBytes (s.decimalStores x)).readByte (s.effAddr 0) = hundreds (s.reg x) ∧
    (s.writeBytes (s.decimalStores x)).readByte (s.effAddr 1) = tens (s.reg x) ∧
    (s.writeBytes (s.decimalStores x)).readByte (s.effAddr 2) = ones (s.reg x) := by
  have hread {w : Word × Byte} (hw : w ∈ s.decimalStores x) :
      (s.writeBytes (s.decimalStores x)).readByte w.1 = w.2 :=
    s.readByte_writeBytes_of_mem _ (s.decimalStores_cells_differ x) hw
  exact ⟨hread (.head _), hread (.tail _ (.head _)), hread (.tail _ (.tail _ (.head _)))⟩

end Sys2Proof.Machine

namespace Sys2Proof

open Machine

/-! ### The frames of the stores and of the loads -/

theorem changesOnly_decimalStores (s : State) (x : Reg) :
    ChangesOnly (fun p => ∃ i : Nat, i < 3 ∧ p = Part.byteAt (s.effAddr i)) s
      (s.writeBytes (s.decimalStores x)) := by
  refine (changesOnly_writeBytes s _).mono ?_
  rintro _ ⟨w, hw, rfl⟩
  simp only [State.decimalStores, List.mem_cons, List.not_mem_nil, or_false] at hw
  obtain rfl | rfl | rfl := hw
  · exact ⟨0, by decide, rfl⟩
  · exact ⟨1, by decide, rfl⟩
  · exact ⟨2, by decide, rfl⟩

theorem changesOnly_regStores (s : State) (x : Reg) :
    ChangesOnly (fun p => ∃ i : Nat, i ≤ x.val ∧ p = Part.byteAt (s.effAddr i)) s
      (s.writeBytes (s.regStores x)) := by
  refine (changesOnly_writeBytes s _).mono ?_
  rintro _ ⟨w, hw, rfl⟩
  obtain ⟨r, hr, rfl⟩ := List.mem_map.1 hw
  exact ⟨r.val, (mem_regsUpTo x r).1 hr, rfl⟩

theorem changesOnly_regLoads (s : State) (x : Reg) :
    ChangesOnly (fun p => ∃ r : Reg, r ≤ x ∧ p = .reg r) s (s.setRegs (s.regLoads x)) := by
  refine (changesOnly_setRegs s _).mono ?_
  rintro _ ⟨w, hw, rfl⟩
  obtain ⟨r, hr, rfl⟩ := List.mem_map.1 hw
  exact ⟨r, (mem_regsUpTo x r).1 hr, rfl⟩

/-- A write of `I` after an update adds that one part to the update's frame. -/
theorem ChangesOnly.then_setI {P : Part → Prop} {s t : State} (h : ChangesOnly P s t) (w : Word) :
    ChangesOnly (fun p => p = .I ∨ P p) s (t.setI w) :=
  (h.mono fun _ => .inr).trans ((changesOnly_setI t w).mono fun _ => .inl)

/-- What an instruction that writes `I` alone does to the state. -/
theorem completes_setI {i : Instr} {s : State} {w : Word} {n : Nat}
    (hexec : exec i s = .next (s.setI w)) (hw : w.toNat = n) :
    Completes i s fun t => t.I.toNat = n ∧ ChangesOnly (· = .I) s t :=
  ⟨_, hexec, hw, changesOnly_setI s w⟩

/-- Settles O21: the three instructions differ in the value written to `I` only. -/
theorem indexRegisterLoads : Obligations.IndexRegisterLoads := fun x nnn _ =>
  ⟨decodeOfEncode (.ldI nnn) rfl, decodeOfEncode (.addI x) rfl, decodeOfEncode (.ldF x) rfl,
    completes_setI rfl (addr16_toNat nnn), completes_setI rfl (add_zext16_toNat _ _),
    completes_setI rfl (glyphAddr_toNat _)⟩

/-- Settles O22: the three cells are distinct, so each digit is read back where it was stored. -/
theorem decimalDigitsStored : Obligations.DecimalDigitsStored := by
  intro x s
  obtain ⟨hhundreds, htens, hones⟩ := s.readByte_decimalStores x
  exact ⟨decodeOfEncode (.ldB3 x) rfl, _, rfl, by rw [hhundreds, hundreds_toNat],
    by rw [htens, tens_toNat], by rw [hones, ones_toNat], changesOnly_decimalStores s x⟩

/-- Settles O23, by the rules of the list of stores, of its frame and of `I`. -/
theorem registersStored : Obligations.RegistersStored := fun x s =>
  ⟨decodeOfEncode (.stRegs x) rfl, _, rfl, fun _ hr => s.readByte_regStores hr, s.nextI_toNat x,
    (changesOnly_regStores s x).then_setI _⟩

/-- Settles O24, by the rules of the list of loads, of its frame and of `I`. -/
theorem registersLoaded : Obligations.RegistersLoaded := fun x s =>
  ⟨decodeOfEncode (.ldRegs x) rfl, _, rfl, fun r hr => (s.reg_regLoads x r).trans (if_pos hr),
    s.nextI_toNat x, (changesOnly_regLoads s x).then_setI _⟩

/-- Settles O25: the load reads the cells the store wrote, because memory, font and `I` agree. -/
theorem loadAfterStoreRestores : Obligations.LoadAfterStoreRestores := by
  intro x s t u w hstore hM hconfig hI hload r hr
  obtain ⟨-, t', ht', hstored, -, -⟩ := registersStored x s
  obtain ⟨-, w', hw', hloaded, -, -⟩ := registersLoaded x u
  cases hstore.symm.trans ht'
  cases hload.symm.trans hw'
  calc w.reg r = u.readByte (u.effAddr r.val) := hloaded r hr
    _ = t.readByte (s.effAddr r.val) := by
      simp only [State.readByte, State.effAddr, hM, hconfig, hI]
    _ = s.reg r := hstored r hr

end Sys2Proof

namespace Sys2Proof

open Machine

/-! ### What DXYN does to the state -/

section
variable {x y : Reg} {n : RowCount} {s t : State} {px : Fin 64} {py : Fin 32}

theorem exec_drw_pixel_of_covers (hdraw : exec (.drw x y n) s = .next t)
    (hcov : SpriteCovers s x y n px py) : t.pixel px py = !s.pixel px py := by
  cases hdraw
  exact s.pixel_sprite_of_covers x y n hcov

theorem exec_drw_pixel_of_not_covers (hdraw : exec (.drw x y n) s = .next t)
    (hcov : ¬ SpriteCovers s x y n px py) : t.pixel px py = s.pixel px py := by
  cases hdraw
  exact s.pixel_sprite_of_not_covers x y n hcov

theorem exec_drw_VF (hdraw : exec (.drw x y n) s = .next t) :
    t.reg VF = flagByte (s.sprite x y n).hit := by
  cases hdraw
  exact State.reg_setReg_same _ VF _

theorem exec_drw_VF_eq_one_iff (hdraw : exec (.drw x y n) s = .next t) :
    t.reg VF = 1 ↔ ∃ px py, SpriteCovers s x y n px py ∧ s.pixel px py = true := by
  rw [exec_drw_VF hdraw, flagByte_eq_one, s.hit_sprite]

theorem exec_drw_VF_eq_zero_iff (hdraw : exec (.drw x y n) s = .next t) :
    t.reg VF = 0 ↔ ¬ ∃ px py, SpriteCovers s x y n px py ∧ s.pixel px py = true := by
  rw [exec_drw_VF hdraw, flagByte_eq_zero, ← Bool.not_eq_true, s.hit_sprite]

end

/-- Settles O28, by the rules of DXYN's pixels and flag; the frame is that of the three updates. -/
theorem drawTogglesCoveredPixels : Obligations.DrawTogglesCoveredPixels := fun x y n s =>
  ⟨decodeOfEncode (.drw x y n) rfl, _, rfl,
    fun _ _ => ⟨exec_drw_pixel_of_covers rfl, exec_drw_pixel_of_not_covers rfl⟩,
    (exec_drw_VF_eq_one_iff rfl).2, (exec_drw_VF_eq_zero_iff rfl).2, rfl,
    (((changesOnly_setFB s _).mono fun _ hpixel => .inr (.inr hpixel)).trans
      ((changesOnly_setFlag _ _).of_eq (.inl rfl))).trans
      ((changesOnly_emit _ _).of_eq (.inr (.inl rfl)))⟩

/-! ### The same sprite drawn a second time (R273) -/

theorem Machine.State.pixel_congr {s t : State} (h : s.FB = t.FB) (px : Fin 64) (py : Fin 32) :
    s.pixel px py = t.pixel px py :=
  congrArg (Framebuffer.pixel · px py) h

/-- What a sprite covers depends on its bytes and its corner only, so on no pixel. -/
theorem spriteCovers_congr {x y : Reg} {n : RowCount} {s u : State} (hM : u.M = s.M)
    (hconfig : u.config = s.config) (hI : u.I = s.I) (hx : u.reg x = s.reg x)
    (hy : u.reg y = s.reg y) (px : Fin 64) (py : Fin 32) :
    SpriteCovers u x y n px py ↔ SpriteCovers s x y n px py := by
  simp only [SpriteCovers, State.readByte, hM, hconfig, hI, hx, hy]

section
variable {x y : Reg} {n : RowCount} {s t u w : State} (hfirst : exec (.drw x y n) s = .next t)
  (hFB : u.FB = t.FB)
  (hsame : ∀ px py, SpriteCovers u x y n px py ↔ SpriteCovers s x y n px py)
  (hsecond : exec (.drw x y n) u = .next w)
include hfirst hFB hsame hsecond

/-- A covered pixel toggles twice, and another one never. -/
theorem exec_drw_twice_FB : w.FB = s.FB := by
  refine Framebuffer.ext_pixel fun px py => show w.pixel px py = s.pixel px py from ?_
  by_cases hcov : SpriteCovers s x y n px py
  · rw [exec_drw_pixel_of_covers hsecond ((hsame px py).2 hcov), State.pixel_congr hFB,
      exec_drw_pixel_of_covers hfirst hcov, Bool.not_not]
  · rw [exec_drw_pixel_of_not_covers hsecond (mt (hsame px py).1 hcov), State.pixel_congr hFB,
      exec_drw_pixel_of_not_covers hfirst hcov]

/-- A covered pixel is on at the second draw exactly when it was off at the first. -/
theorem exec_drw_twice_VF_eq_one_iff :
    w.reg VF = 1 ↔ ∃ px py, SpriteCovers s x y n px py ∧ s.pixel px py = false := by
  rw [exec_drw_VF_eq_one_iff hsecond]
  refine exists_congr fun px => exists_congr fun py => ?_
  rw [hsame, State.pixel_congr hFB]
  refine and_congr_right fun hcov => ?_
  rw [exec_drw_pixel_of_covers hfirst hcov, Bool.not_eq_true']

end

/-- Settles O29: the second sprite covers what the first did, and finds those pixels toggled. -/
theorem drawingTwiceRestoresScreen : Obligations.DrawingTwiceRestoresScreen := by
  intro x y n s t u w hfirst hFB hM hconfig hI hx hy hsecond
  have hsame := spriteCovers_congr (n := n) hM hconfig hI hx hy
  exact ⟨exec_drw_twice_FB hfirst hFB hsame hsecond,
    exec_drw_twice_VF_eq_one_iff hfirst hFB hsame hsecond⟩

/-- A one-bit sprite in memory, with I on it, and its pixel already on. -/
def oneBitSpriteOnLitPixel : State :=
  ((State.reset.setI 0x300).writeByte 0x300 0x80).setFB (Framebuffer.toggle Framebuffer.clear 0 0)

theorem oneBitSpriteOnLitPixel_covers : SpriteCovers oneBitSpriteOnLitPixel 0 1 1 0 0 :=
  ⟨0, 0, by decide, by decide, by decide, rfl, rfl⟩

/-- Refutes O31: the first draw turns the sprite's one pixel off, so the second finds none on and
leaves VF = 0. -/
theorem not_secondDrawAlwaysCollides : ¬ Obligations.SecondDrawAlwaysCollides := by
  intro h
  have hVF := h 0 1 1 oneBitSpriteOnLitPixel _ _ _ rfl rfl rfl rfl rfl rfl rfl rfl
    ⟨0, 0, oneBitSpriteOnLitPixel_covers⟩
  exact absurd hVF (by decide)

/-- Settles O30: no pixel is on, so no covered one is. -/
theorem drawOnClearScreenNoCollision : Obligations.DrawOnClearScreenNoCollision := by
  intro x y n s t hclear hdraw
  refine (exec_drw_VF_eq_zero_iff hdraw).2 ?_
  rintro ⟨px, py, -, hon⟩
  simp [hclear] at hon

/-- Settles O60: O30 gives the first VF; O29 gives the second, as every covered pixel was off, and
the screen. -/
theorem secondDrawOnClearScreenCollides : Obligations.SecondDrawOnClearScreenCollides := by
  intro x y n s t u w hclear ⟨px, py, hcov⟩ hfirst hFB hM hconfig hI hx hy hsecond
  obtain ⟨hscreen, hVF⟩ :=
    drawingTwiceRestoresScreen x y n s t u w hfirst hFB hM hconfig hI hx hy hsecond
  refine ⟨drawOnClearScreenNoCollision x y n s t hclear hfirst,
    hVF.2 ⟨px, py, hcov, hclear px py⟩, fun qx qy => ?_⟩
  rw [State.pixel_congr hscreen, hclear]

/-- Settles O27, by the rules of the clear screen; the frame is that of the two updates. -/
theorem clsClearsScreen : Obligations.ClsClearsScreen := fun s =>
  ⟨decodeOfEncode .cls rfl, _, rfl, fun x y => Framebuffer.pixel_clear x y, rfl,
    ((changesOnly_setFB s _).mono fun _ => .inr).trans
      ((changesOnly_emit _ _).of_eq (.inl rfl))⟩

end Sys2Proof

namespace Sys2Proof

open Machine

/-! ### What a timer or keypad instruction does to the state

One rule for each of the updates of DT, ST and the wait; FX07 is an instruction that writes VX alone. -/

section
variable {i : Instr} {s : State} {b : Byte} {x : Reg}

theorem completes_setDT (hexec : exec i s = .next (s.setDT b)) :
    Completes i s fun t => t.DT = b ∧ ChangesOnly (· = .DT) s t :=
  ⟨_, hexec, s.setDT_DT b, changesOnly_setDT s b⟩

theorem completes_setST (hexec : exec i s = .next (s.setST b)) :
    Completes i s fun t => t.ST = b ∧ ChangesOnly (· = .ST) s t :=
  ⟨_, hexec, s.setST_ST b, changesOnly_setST s b⟩

theorem completes_beginWait (hexec : exec i s = .next (s.beginWait x)) :
    Completes i s fun t =>
      t.waiting = true ∧ t.waitReg = x ∧ ChangesOnly (· ∈ [.waiting, .waitReg]) s t :=
  ⟨_, hexec, s.beginWait_waiting x, s.beginWait_waitReg x, changesOnly_beginWait s x⟩

end

/-- Settles O32, by the rules for VX alone, for DT and for ST. -/
theorem timerTransfers : Obligations.TimerTransfers := fun x _ =>
  ⟨decodeOfEncode (.ldVDT x) rfl, decodeOfEncode (.ldDT x) rfl, decodeOfEncode (.ldST x) rfl,
    completes_setReg rfl, completes_setDT rfl, completes_setST rfl⟩

/-- Settles O33, by the rule for the wait: its update is the same whichever keys are down. -/
theorem waitForKeyBegins : Obligations.WaitForKeyBegins := fun x _ =>
  ⟨decodeOfEncode (.ldVK x) rfl, completes_beginWait rfl⟩

end Sys2Proof

namespace Sys2Proof.Machine

/-! ### The errors of an instruction, forwards -/

/-- Every row of the table of instruction errors is an error of `exec` (R331, R334). -/
theorem exec_eq_fault_of_raises {i : Instr} {s : State} {e : Fault} (h : Raises i s e) :
    exec i s = .fault e := by
  cases h with
  | overflow nnn _ hp hfull => exact exec_call_eq_fault nnn hp hfull
  | underflow _ hp hempty => exact exec_ret_eq_fault hp (BitVec.eq_of_toNat_eq hempty)
  | keyDown x _ hbig => exact exec_skp_eq_fault hbig
  | keyUp x _ hbig => exact exec_sknp_eq_fault hbig

theorem exec_eq_fault_iff {i : Instr} {s : State} {e : Fault} :
    exec i s = .fault e ↔ Raises i s e :=
  ⟨exec_fault_raises, exec_eq_fault_of_raises⟩

/-! ### The guard of the host operations (R352) -/

section
variable {s : State} (hi : s.initialized = false)
include hi

theorem step_not_initialized : step s = .fault (.notInitialized .step) := if_pos hi

theorem hostLoad_not_initialized (rom : List Byte) :
    hostLoad rom s = .fault (.notInitialized .load) := if_pos hi

theorem hostTick_not_initialized (hc : s.config.timerCadence = .external) :
    hostTick s = .fault (.notInitialized .tick) := by
  simp only [hostTick, hc]
  exact if_pos hi

theorem hostSetKey_not_initialized (k : Nat) (d : Bool) :
    hostSetKey k d s = .fault (.notInitialized .setKey) := if_pos hi

end

/-! ### The host operations past the guard, forwards -/

section
variable {s : State} (hi : s.initialized = true)
include hi

theorem hostTick_eq_next (hc : s.config.timerCadence = .external) :
    hostTick s = .next s.clearEvents.timerTick := by
  simp only [hostTick, hc]
  exact if_neg (by simp [hi])

theorem hostSetKey_eq_next {k : Nat} (d : Bool) (hk : k < 16) :
    hostSetKey k d s = .next (s.clearEvents.keyEvent ⟨k, hk⟩ d) := by
  simp [hostSetKey, hi, hk]

theorem hostSetKey_eq_fault {k : Nat} (d : Bool) (hk : 15 < k) :
    hostSetKey k d s = .fault (.invalidKeyIndex k) := by
  have hnot : ¬ k < 16 := by omega
  simp [hostSetKey, hi, hnot, raise]

end

/-! ### A key's new level, by the edge (R344) -/

/-- Writing the level a key already has changes nothing. -/
theorem State.setKeyLevel_same {s : State} {k : Key} {d : Bool} (h : s.key k = d) :
    s.setKeyLevel k d = s := by
  subst h
  simp [State.setKeyLevel, State.key]

theorem State.keyEvent_press_waiting {s : State} {k : Key} (hup : s.key k = false)
    (hw : s.waiting = true) :
    s.keyEvent k true = ((s.setKeyLevel k true).emit (.keyPressed k)).endWait k := by
  simp [State.keyEvent, hup, hw]

theorem State.keyEvent_press {s : State} {k : Key} (hup : s.key k = false)
    (hw : s.waiting = false) :
    s.keyEvent k true = (s.setKeyLevel k true).emit (.keyPressed k) := by
  simp [State.keyEvent, hup, hw]

theorem State.keyEvent_release {s : State} {k : Key} (hdown : s.key k = true) :
    s.keyEvent k false = (s.setKeyLevel k false).emit (.keyReleased k) := by
  simp [State.keyEvent, hdown]

theorem State.keyEvent_repeat {s : State} {k : Key} {d : Bool} (h : s.key k = d) :
    s.keyEvent k d = s := by
  cases d <;> simp [State.keyEvent, h, State.setKeyLevel_same]

/-- The register a wait remembers holds the code of the key that ends it (R303). -/
theorem State.reg_endWait_waitReg_toNat (s : State) (k : Key) :
    ((s.endWait k).reg s.waitReg).toNat = k.val := by
  rw [State.reg_endWait, if_pos rfl, BitVec.toNat_ofNat]
  omega

/-- Whatever the edge, the key is then at its new level. -/
theorem State.key_keyEvent_same (s : State) (k : Key) (d : Bool) : (s.keyEvent k d).key k = d := by
  unfold State.keyEvent
  dsimp only
  split_ifs <;> simp

/-! ### The response to an error (R330) -/

theorem respond_of_error {s : State} {r : Result} {e : Fault}
    (h : (respond s r).reply = .error e) :
    respond s r = { state := s, reply := .error e, events := [] } := by
  cases r with
  | next | refused => cases h
  | fault => cases h; rfl

theorem respondSize_of_error {s : State} {r : Host.Outcome (State × Nat) Fault Refusal} {e : Fault}
    (h : (respondSize s r).reply = .error e) :
    respondSize s r = { state := s, reply := .error e, events := [] } := by
  cases r with
  | next | refused => cases h
  | fault => cases h; rfl

theorem perform_of_error {s : State} {c : HostOp} {e : Fault}
    (h : (perform s c).reply = .error e) :
    perform s c = { state := s, reply := .error e, events := [] } := by
  cases c with
  | init | step | tick | setKey => exact respond_of_error h
  | load => exact respondSize_of_error h
  | readFramebuffer => cases h

/-! ### The pixels in row-major order (R357) -/

theorem Framebuffer.rowMajor_eq_flatten (fb : Framebuffer) :
    Framebuffer.rowMajor fb = (Vector.flatten fb).toList := by
  rw [Vector.flatten, Vector.toList, Array.toList_flatten, Array.toList_map, List.map_map]
  rfl

theorem Framebuffer.length_rowMajor (fb : Framebuffer) :
    (Framebuffer.rowMajor fb).length = 2048 := by
  rw [Framebuffer.rowMajor_eq_flatten, Vector.length_toList]

theorem Framebuffer.getElem?_rowMajor (fb : Framebuffer) (x : Fin 64) (y : Fin 32) :
    (Framebuffer.rowMajor fb)[y.val * 64 + x.val]? = some (Framebuffer.pixel fb x y) := by
  have hindex : y.val * 64 + x.val < 32 * 64 := by omega
  have hrow : (y.val * 64 + x.val) / 64 = y.val := by omega
  have hcol : (y.val * 64 + x.val) % 64 = x.val := by omega
  rw [Framebuffer.rowMajor_eq_flatten, Vector.getElem?_toList, Vector.getElem?_flatten,
    dif_pos hindex]
  simp only [hrow, hcol]
  rfl

end Sys2Proof.Machine

namespace Sys2Proof

open Machine

/-- Settles O39: the table's errors are those of `exec`, which is never refused. -/
theorem instructionErrorsAreTheTabledOnes : Obligations.InstructionErrorsAreTheTabledOnes := by
  intro i s
  refine ⟨fun e => exec_eq_fault_iff, fun hnone => ?_⟩
  cases h : exec i s with
  | next t => exact ⟨t, rfl⟩
  | fault e => exact absurd (exec_fault_raises h) (hnone e)
  | refused r => exact absurd h (exec_ne_refused i s r)

/-! ### The frames of `setKey` -/

/-- An edge outside a wait writes the key's level and one event. -/
theorem changesOnly_setKeyLevel_emit (s : State) (k : Key) (d : Bool) (e : Event) :
    ChangesOnly (· ∈ [.key k, .events]) s ((s.setKeyLevel k d).emit e) :=
  ((changesOnly_setKeyLevel s k d).of_eq (by simp)).trans
    ((changesOnly_emit _ e).of_eq (by simp))

/-- An operation starts from no events; a frame that has the events has that too. -/
theorem ChangesOnly.of_clearEvents {P : Part → Prop} {s t : State}
    (h : ChangesOnly P s.clearEvents t) (hP : P .events) : ChangesOnly P s t :=
  ((changesOnly_clearEvents s).of_eq hP).trans h

/-- Settles O49, by the edge: what the key's new level does is said once for each. -/
theorem setKeyEdges : Obligations.SetKeyEdges := by
  intro k d s
  refine ⟨fun hi => hostSetKey_not_initialized hi k d, fun hi => hostSetKey_eq_fault hi d,
    fun hi hk => ⟨_, hostSetKey_eq_next hi d hk, State.key_keyEvent_same _ _ d, ?_, ?_, ?_, ?_⟩⟩
  · rintro hup rfl hw
    have hframe := changesOnly_keyEvent s.clearEvents ⟨k, hk⟩ true
    rw [State.keyEvent_press_waiting (s := s.clearEvents) hup hw] at hframe ⊢
    exact ⟨State.reg_endWait_waitReg_toNat _ _, rfl, rfl,
      (hframe.mono (by simp +contextual)).of_clearEvents (by simp)⟩
  · rintro hup rfl hw
    rw [State.keyEvent_press (s := s.clearEvents) hup hw]
    exact ⟨rfl, (changesOnly_setKeyLevel_emit _ _ _ _).of_clearEvents (by simp)⟩
  · rintro hdown rfl
    rw [State.keyEvent_release (s := s.clearEvents) hdown]
    exact ⟨rfl, (changesOnly_setKeyLevel_emit _ _ _ _).of_clearEvents (by simp)⟩
  · intro hsame
    rw [State.keyEvent_repeat (s := s.clearEvents) hsame]
    exact ⟨rfl, changesOnly_clearEvents s⟩

/-- Settles O52: the list is the flattened screen, whose row length is 64. -/
theorem framebufferReadRowMajor : Obligations.FramebufferReadRowMajor := fun s =>
  ⟨Framebuffer.length_rowMajor s.FB, Framebuffer.getElem?_rowMajor s.FB, rfl⟩

/-- Settles O34, by the rules of a tick. -/
theorem timerTickCountsDown : Obligations.TimerTickCountsDown := fun s =>
  ⟨s.timerTick_DT_toNat, s.timerTick_ST, s.timerTick_events, changesOnly_timerTick s⟩

/-- Settles O48: past the guard it is the tick of O34 on the state with no events. -/
theorem hostTickTicks : Obligations.HostTickTicks := by
  intro s hc
  refine ⟨fun hi => hostTick_not_initialized hi hc, fun hi => ⟨_, hostTick_eq_next hi hc, ?_⟩⟩
  obtain ⟨hDT, hST, hevents, hframe⟩ := timerTickCountsDown s.clearEvents
  exact ⟨hDT, hST, hevents, hframe.of_clearEvents (by simp)⟩

/-- Settles O50: each guard comes before the operation looks at its arguments. -/
theorem guardBeforeInitialize : Obligations.GuardBeforeInitialize := fun _ rom k d hi =>
  ⟨step_not_initialized hi, hostLoad_not_initialized hi rom, hostTick_not_initialized hi,
    hostSetKey_not_initialized hi k d, rfl⟩

/-- Settles O51, by the response to an error. -/
theorem errorsChangeNothing : Obligations.ErrorsChangeNothing := by
  intro s c e h
  rw [perform_of_error h]
  exact ⟨rfl, rfl⟩

end Sys2Proof

namespace Sys2Proof.Machine

/-! ### The component reset (R380) and what `initialize` leaves (R382) -/

@[simp] theorem State.reg_componentReset (s : State) (r : Reg) : s.componentReset.reg r = 0 :=
  Vector.getElem_replicate r.isLt

@[simp] theorem State.entry_componentReset (s : State) (j : Fin 16) : s.componentReset.S[j] = 0 :=
  Vector.getElem_replicate j.isLt

@[simp] theorem State.key_componentReset (s : State) (k : Key) : s.componentReset.key k = false :=
  Vector.getElem_replicate k.isLt

@[simp] theorem State.pixel_componentReset (s : State) (x : Fin 64) (y : Fin 32) :
    s.componentReset.pixel x y = false :=
  Framebuffer.pixel_clear x y

/-- Nothing is listed after the reset, so every address reads as R44 says. -/
@[simp] theorem State.readByte_componentReset (s : State) (a : Word) :
    s.componentReset.readByte a = Memory.unlisted s.config.font (cellOf a) := rfl

/-- The block after its first `initialize`: the component reset, with the guard set (R382). -/
def State.afterInit (s : State) : State := { s.componentReset with initialized := true }

theorem hostInit_eq_next {s : State} (hi : s.initialized = false) :
    hostInit s = .next s.afterInit := if_neg (by simp [hi])

theorem hostInit_eq_fault {s : State} (hi : s.initialized = true) :
    hostInit s = .fault .alreadyInitialized := if_pos hi

/-! ### The copy of `load` (R383) -/

section
variable {rom : List Byte} {s : State}

theorem hostLoad_eq_fault (hi : s.initialized = true) (hbig : 3584 < rom.length) :
    hostLoad rom s = .fault (.romTooLarge rom.length) := by
  simp [hostLoad, hi, romMax, hbig]

theorem hostLoad_eq_next (hi : s.initialized = true) (hfit : rom.length ≤ 3584) :
    hostLoad rom s = .next (s.componentReset.writeBytes (romStores rom), rom.length) := by
  have hnot : ¬ 3584 < rom.length := by omega
  simp [hostLoad, hi, romMax, hnot]

@[simp] theorem length_romStores : (romStores rom).length = rom.length := by
  simp [romStores]

/-- Byte `j` of the ROM goes to 0x200 + j. -/
theorem getElem_romStores {j : Nat} (hj : j < (romStores rom).length) :
    (romStores rom)[j] = (BitVec.ofNat 16 (0x200 + j), rom[j]'(by simpa using hj)) := by
  simp [romStores, loadAddr, BitVec.ofNat_add]

/-- A ROM that fits ends below 0x1000, so its addresses are their own cells. -/
theorem cellOf_romAddr {j : Nat} (hj : j < 3584) :
    cellOf (BitVec.ofNat 16 (0x200 + j)) = 0x200 + j := by
  rw [cellOf, BitVec.toNat_ofNat]
  omega

theorem romStores_cells_differ (hfit : rom.length ≤ 3584) :
    (romStores rom).Pairwise (fun v w => cellOf v.1 ≠ cellOf w.1) := by
  refine List.pairwise_iff_getElem.2 fun i j hi hj hij => ?_
  rw [length_romStores] at hi hj
  rw [getElem_romStores, getElem_romStores, cellOf_romAddr (by omega), cellOf_romAddr (by omega)]
  omega

theorem State.readByte_romStores (s : State) (hfit : rom.length ≤ 3584) {j : Nat}
    (hj : j < rom.length) :
    (s.writeBytes (romStores rom)).readByte (BitVec.ofNat 16 (0x200 + j)) = rom[j] := by
  have hmem : (romStores rom)[j]'(by simpa using hj) ∈ romStores rom := List.getElem_mem _
  have hread := s.readByte_writeBytes_of_mem _ (romStores_cells_differ hfit) hmem
  rwa [getElem_romStores] at hread

end

/-! ### The slide through memory with no ROM (R386) -/

/-- A run of `k` steps that completes goes on from its last state. -/
theorem core_run_add {k : Nat} {s t : State} (h : core.run k s = .next t) (j : Nat) :
    core.run (k + j) s = core.run j t := by
  induction k generalizing s with
  | zero => cases h; rw [Nat.zero_add]
  | succ k ih =>
    rw [Nat.add_right_comm]
    cases hstep : core.step s with
    | next u =>
      rw [core_run_succ k hstep] at h
      rw [core_run_succ (k + j) hstep]
      exact ih h
    | fault | refused => simp only [Host.Core.run, hstep, reduceCtorEq] at h

/-- A no-op moves `pc` alone: the timers are at 0, so its tick under `PerStep` does nothing. -/
theorem State.afterInit_noop (s : State) (p : Word) :
    (s.afterInit.setPc p).beginInstr.stepTick = s.afterInit.setPc (p + 2) := by
  rw [State.stepTick_eq, State.timerTick_eq]
  exact ite_self _

/-- Above the font and below 0x1000 a reset block fetches 0x0000. -/
theorem State.opcode_afterInit_eq_zero (s : State) {p : Word} (hlow : 80 ≤ p.toNat)
    (hhigh : p.toNat + 1 < 4096) : (s.afterInit.setPc p).opcode = 0#16 := by
  have hzero {a : Word} (ha : 80 ≤ a.toNat) (ha' : a.toNat < 4096) :
      (s.afterInit.setPc p).readByte a = 0 :=
    dif_neg (by rw [cellOf]; omega)
  have hnext : (p + 1).toNat = p.toNat + 1 := by bv_omega
  rw [State.opcode, State.setPc_pc, hzero hlow (by omega), hzero (by omega) (by omega)]
  rfl

theorem step_afterInit_noop (s : State) {p : Word} (hlow : 80 ≤ p.toNat)
    (hhigh : p.toNat + 1 < 4096) :
    step (s.afterInit.setPc p) = .next (s.afterInit.setPc (p + 2)) := by
  have hdecode : decodeWord (s.afterInit.setPc p).opcode = .ok (.sys 0) := by
    rw [s.opcode_afterInit_eq_zero hlow hhigh]
    rfl
  rw [step_decoded rfl rfl hdecode, ← s.afterInit_noop p]
  rfl

/-- The state after `k` steps of the slide is known in full: `pc` alone has moved. -/
theorem core_run_afterInit (s : State) {k : Nat} (hk : k ≤ 1792) :
    core.run k s.afterInit = .next (s.afterInit.setPc (BitVec.ofNat 16 (0x200 + 2 * k))) := by
  induction k with
  | zero => rfl
  | succ k ih =>
    have hpc : (BitVec.ofNat 16 (0x200 + 2 * k)).toNat = 0x200 + 2 * k := by
      rw [BitVec.toNat_ofNat]
      omega
    have hnext : BitVec.ofNat 16 (0x200 + 2 * k) + 2 = BitVec.ofNat 16 (0x200 + 2 * (k + 1)) :=
      (BitVec.ofNat_add _ 2).symm
    rw [← hnext]
    exact core_run_extend (ih (by omega)) (step_afterInit_noop s (by omega) (by omega))

/-- At 0x1000 the fetch wraps to the first two bytes of the font (R63). -/
theorem State.opcode_afterInit_defaultFont {s : State} (hfont : s.config.font = defaultFont) :
    (s.afterInit.setPc 0x1000#16).opcode = 0xF090#16 := by
  have hread (a : Word) :
      (s.afterInit.setPc 0x1000#16).readByte a = Memory.unlisted s.config.font (cellOf a) := rfl
  have hhigh : Memory.unlisted defaultFont (cellOf 0x1000#16) = 0xF0#8 := by decide
  have hlow : Memory.unlisted defaultFont (cellOf (0x1000#16 + 1)) = 0x90#8 := by decide
  rw [State.opcode, State.setPc_pc, hread, hread, hfont, hhigh, hlow]
  rfl

theorem step_afterInit_defaultFont {s : State} (hfont : s.config.font = defaultFont) :
    step (s.afterInit.setPc 0x1000#16) =
      .fault (.invalidOpcode 0xF090#16 0x1000#16 0xF#4) := by
  have hop := State.opcode_afterInit_defaultFont hfont
  have hdecode : decodeWord (s.afterInit.setPc 0x1000#16).opcode = .error .lowByteOfF := by
    rw [hop]
    rfl
  rw [step_invalid rfl rfl hdecode, State.invalidOpcode, hop]
  rfl

end Sys2Proof.Machine

namespace Sys2Proof

open Machine

/-- Settles O45: the memory clause is the model's reading of an unlisted byte (R44). -/
theorem componentResetValues : Obligations.ComponentResetValues := fun s =>
  ⟨rfl, s.reg_componentReset, rfl, rfl, s.entry_componentReset, rfl, rfl, rfl, rfl,
    s.readByte_componentReset, s.pixel_componentReset, s.key_componentReset, rfl, rfl⟩

/-- The guard is all that `initialize` sets beyond the component reset. -/
theorem changesOnly_afterInit (s : State) :
    ChangesOnly (· = .initialized) s.componentReset s.afterInit := by
  intro p hp
  cases p with
  | initialized => exact absurd rfl hp
  | _ => rfl

/-- Settles O46, by the guard of `initialize`. -/
theorem initializeOnce : Obligations.InitializeOnce := fun s =>
  ⟨fun hi => ⟨_, hostInit_eq_next hi, rfl, rfl, changesOnly_afterInit s⟩, hostInit_eq_fault⟩

/-- The copy of a ROM writes the cells of its bytes and nothing else (R383). -/
theorem changesOnly_romStores (s : State) (rom : List Byte) :
    ChangesOnly (fun p => ∃ j : Nat, j < rom.length ∧
      p = Part.byteAt (BitVec.ofNat 16 (0x200 + j))) s (s.writeBytes (romStores rom)) := by
  refine (changesOnly_writeBytes s _).mono ?_
  rintro _ ⟨w, hw, rfl⟩
  obtain ⟨j, hj, rfl⟩ := List.mem_iff_getElem.1 hw
  exact ⟨j, length_romStores ▸ hj, by rw [getElem_romStores]⟩

/-- Settles O47, by the guard, the size, and the copy to distinct cells. -/
theorem loadResetsThenCopies : Obligations.LoadResetsThenCopies := fun rom s =>
  ⟨fun hi => hostLoad_not_initialized hi rom, hostLoad_eq_fault, fun hi hfit =>
    ⟨_, hostLoad_eq_next hi hfit, fun _ hj => s.componentReset.readByte_romStores hfit hj,
      changesOnly_romStores _ rom⟩⟩

/-- Settles O59: the slide ends at 0x1000, and the step after it meets the font. -/
theorem runWithoutRom : Obligations.RunWithoutRom := by
  intro s hfont
  refine ⟨fun k hk => ⟨_, core_run_afterInit s hk, ?_⟩, ?_⟩
  · rw [State.setPc_pc, BitVec.toNat_ofNat]
    omega
  · have hslide : core.run 1792 s.afterInit = .next (s.afterInit.setPc 0x1000#16) :=
      core_run_afterInit s le_rfl
    refine (core_run_add hslide 1).trans ?_
    have hstep : core.step (s.afterInit.setPc 0x1000#16) = _ := step_afterInit_defaultFont hfont
    simp only [Host.Core.run, hstep]

/-- Memories in canonical form are equal when every cell is the same part. -/
theorem SafeState.memory_eq {s t : State} (hs : SafeState s) (ht : SafeState t)
    (hconfig : t.config = s.config) (hcell : ∀ a, (Part.cell a).Same s t) : t.M = s.M := by
  refine Memory.ext_read (hconfig ▸ ht.memory) hs.memory fun a ha => ?_
  have hread : Memory.read t.config.font t.M (cellOf (BitVec.ofNat 16 a)) =
      Memory.read s.config.font s.M (cellOf (BitVec.ofNat 16 a)) := hcell ⟨a, ha⟩
  rwa [cellOf_ofNat ⟨a, ha⟩, hconfig] at hread

/-- Settles O58: the registers, the stack, the keypad, the screen and memory are equal because each
of their parts is; the other fields are parts themselves. -/
theorem partsDetermineState : Obligations.PartsDetermineState := by
  intro s t hs ht h
  have hV : t.V = s.V := Vector.ext fun r hr => h (.reg ⟨r, hr⟩) id
  have hS : t.S = s.S := Vector.ext fun j hj => h (.entry ⟨j, hj⟩) id
  have hK : t.K = s.K := Vector.ext fun k hk => h (.key ⟨k, hk⟩) id
  have hFB : t.FB = s.FB := Framebuffer.ext_pixel fun x y => h (.pixel x y) id
  have hM : t.M = s.M := hs.memory_eq ht (h .config id) fun a => h (.cell a) id
  cases s
  cases t
  simp only [State.mk.injEq]
  exact ⟨hV, h .I id, h .pc id, h .SP id, hS, h .DT id, h .ST id, hM, hFB, hK, h .waiting id,
    h .waitReg id, h .initialized id, h .events id, h .draws id, h .config id⟩

end Sys2Proof
